-- ==== Sys2Proof/Word.lean ====
section
/-! DEFINITION. The bit vectors of dropstick-hw: the widths that spec/00_scope.md R8 and R9 fix. -/

namespace Sys2Proof

/-- A queue word: `WORD_W = 32` bits (R8, R72). -/
abbrev Word := BitVec 32

/-- An APWM register: `REG_W = 16` bits (R9). -/
abbrev Reg := BitVec 16

/-- A sample: `SAMPLE_W = 8` bits (R8). -/
abbrev Sample := BitVec 8

/-- A queue pointer or a flop of its synchroniser: `PTR_W = 1` bit, Gray-coded (R9, R24, R25). -/
abbrev Ptr := BitVec 1

/-- One transcribed operation, a CW40 (R100): `OP = cw[39:32]`, `ARG = cw[31:0]`. -/
abbrev Cw := BitVec 40

end Sys2Proof
end

