-- ==== Sys2Proof/Syntax.lean ====
section
/-! DEFINITION. The syntax of dropstick-hw: block instances, agents, the 27 operations of
spec/30_encoding.md R104 and the inputs the outside gives the machine. -/

namespace Sys2Proof

/-- The two queue instances (R5): ICF0 from core B to core A, ICF1 from core A to core B. -/
inductive IcfId where
  | icf0
  | icf1
deriving DecidableEq, Repr, Inhabited

/-- The two button instances (R5). -/
inductive BtnId where
  | btn0
  | btn1
deriving DecidableEq, Repr, Inhabited

/-- The nine kinds of agent (R15). -/
inductive Agent where
  /-- The write-side clock of a queue. -/
  | wclk (i : IcfId)
  /-- The read-side clock of a queue. -/
  | rclk (i : IcfId)
  /-- The APWM clock. -/
  | pclk
  /-- The sample strobe of a button. -/
  | bclk (j : BtnId)
  /-- The interrupt entry of CORE. -/
  | irq
  /-- The foreground of core B (StorageReader). -/
  | prod
  /-- The foreground of core A (PlaybackController). -/
  | cons
  /-- The interrupt handler of core A. -/
  | hand
  /-- The physical button: it supplies the operand of a sample and issues nothing (R251). -/
  | pin (j : BtnId)
deriving DecidableEq, Repr, Inhabited

/-- The 27 operations, one constructor for each row of spec/opcode_table.json (R104). Operands have the widths
of R110, so no term holds an operand its encoding has no room for. -/
inductive Instr where
  | icf0Write (word : Word)
  | icf0Trywrite (word : Word)
  | icf0Read
  | icf0Wtick
  | icf0Rtick
  | icf1Write (word : Word)
  | icf1Trywrite (word : Word)
  | icf1Read
  | icf1Wtick
  | icf1Rtick
  | pwmCfg (div top : Reg)
  | pwmStart
  | pwmSetduty (val : Reg)
  | pwmIrqen (bit : Bool)
  | pwmIrqclr
  | pwmTick
  | btn0Sample (bit : Bool)
  | btn0Read
  | btn0Clear
  | btn1Sample (bit : Bool)
  | btn1Read
  | btn1Clear
  | coreWfi
  | coreCsenter
  | coreCsexit (bit : Bool)
  | coreIrqentry
  | coreIrqret
deriving DecidableEq, Repr, Inhabited

/-- `ICFi.WRITE word` (R133). -/
def Instr.icfWrite : IcfId → Word → Instr
  | .icf0, w => .icf0Write w
  | .icf1, w => .icf1Write w

/-- `ICFi.TRYWRITE word` (R134). -/
def Instr.icfTrywrite : IcfId → Word → Instr
  | .icf0, w => .icf0Trywrite w
  | .icf1, w => .icf1Trywrite w

/-- `ICFi.READ` (R135). -/
def Instr.icfRead : IcfId → Instr
  | .icf0 => .icf0Read
  | .icf1 => .icf1Read

/-- `ICFi.WTICK` (R132). -/
def Instr.icfWtick : IcfId → Instr
  | .icf0 => .icf0Wtick
  | .icf1 => .icf1Wtick

/-- `ICFi.RTICK` (R136). -/
def Instr.icfRtick : IcfId → Instr
  | .icf0 => .icf0Rtick
  | .icf1 => .icf1Rtick

/-- `BTNj.SAMPLE bit` (R192). -/
def Instr.btnSample : BtnId → Bool → Instr
  | .btn0, b => .btn0Sample b
  | .btn1, b => .btn1Sample b

/-- `BTNj.READ` (R193). -/
def Instr.btnRead : BtnId → Instr
  | .btn0 => .btn0Read
  | .btn1 => .btn1Read

/-- `BTNj.CLEAR` (R194). -/
def Instr.btnClear : BtnId → Instr
  | .btn0 => .btn0Clear
  | .btn1 => .btn1Clear

/-- The five layouts of `ARG` (R102). -/
inductive Format where
  | W
  | Z
  | C
  | H
  | B
deriving DecidableEq, Repr

/-- What the outside gives the machine for one step (R259, R270, R111): the reset, or one operation that an
agent presents, written as a CW40. -/
inductive Input where
  | reset
  | present (agent : Agent) (cw : Cw)
deriving DecidableEq, Repr, Inhabited

end Sys2Proof
end

