-- ==== Sys2Proof/Config.lean ====
section
/-! DEFINITION. What is fixed for the machine (spec/00_scope.md R8, R9), and the free values: constants with no body,
so that every claim holds whatever they are. -/

namespace Sys2Proof.Config

/-- `DEPTH` (R8). -/
def depth : Nat := 1
/-- `SYNC_STAGES`, the flops of a pointer synchroniser (R9). -/
def syncStages : Nat := 2
/-- `BTN_SYNC_STAGES` (R9). -/
def btnSyncStages : Nat := 2
/-- `N_CORES` (R8). -/
def nCores : Nat := 2
/-- `N_ICF` (R9): the slots are the memory cells 0 and 1. -/
def nIcf : Nat := 2
/-- `N_BTN` (R9). -/
def nBtn : Nat := 2
/-- `TOP_REF`, the reference top of count (R8). -/
def topRef : Nat := 4096
/-- `DUTY_MAX_RESCALED` (R8). -/
def dutyMaxRescaled : Nat := 2047

/-- FREE VALUE (log 1): the input the outside presents when State lists none. The spec leaves the order of the clock
edges, the operations of the agents, the pin levels and the resets to the outside (R7, R55, R190, R259; U12, U13, U14). -/
opaque environment : Nat → Input

/-- FREE VALUE (log 4): what a slot that nothing has written is read as. The spec gives it no value and says 'any value'
(R23, R273, U7). No run from reset reads it (R31). -/
opaque unwrittenSlot : Nat → Word

end Sys2Proof.Config
end

