-- ==== Sys2Proof/WellFormed.lean ====
section
/-! DEFINITION. Well-formed operations: the opcode table as masks and patterns (spec/opcode_table.json, R102, R104,
R106), and the reserved operand values (R108). The decoder (Decode.lean) does not use this file: it is the second,
independent writing of the same table, to hold the decoder against. -/

namespace Sys2Proof

/-- One row of spec/opcode_table.json: a 40-bit value is the row's when its bits under `mask` are `pattern`. -/
structure TableRow where
  mnemonic : String
  format : Format
  pattern : Cw
  mask : Cw
deriving DecidableEq, Repr

/-- The rows of the queues (R104). -/
def icfRows : List TableRow :=
  [ ⟨"ICF0.WRITE", .W, 0x1000000000#40, 0xFF00000000#40⟩,
    ⟨"ICF0.TRYWRITE", .W, 0x1100000000#40, 0xFF00000000#40⟩,
    ⟨"ICF0.READ", .Z, 0x1200000000#40, 0xFFFFFFFFFF#40⟩,
    ⟨"ICF0.WTICK", .Z, 0x1E00000000#40, 0xFFFFFFFFFF#40⟩,
    ⟨"ICF0.RTICK", .Z, 0x1F00000000#40, 0xFFFFFFFFFF#40⟩,
    ⟨"ICF1.WRITE", .W, 0x2000000000#40, 0xFF00000000#40⟩,
    ⟨"ICF1.TRYWRITE", .W, 0x2100000000#40, 0xFF00000000#40⟩,
    ⟨"ICF1.READ", .Z, 0x2200000000#40, 0xFFFFFFFFFF#40⟩,
    ⟨"ICF1.WTICK", .Z, 0x2E00000000#40, 0xFFFFFFFFFF#40⟩,
    ⟨"ICF1.RTICK", .Z, 0x2F00000000#40, 0xFFFFFFFFFF#40⟩ ]

/-- The rows of APWM (R104). -/
def pwmRows : List TableRow :=
  [ ⟨"PWM.CFG", .C, 0x3000000000#40, 0xFF00000000#40⟩,
    ⟨"PWM.START", .Z, 0x3100000000#40, 0xFFFFFFFFFF#40⟩,
    ⟨"PWM.SETDUTY", .H, 0x3200000000#40, 0xFFFFFF0000#40⟩,
    ⟨"PWM.IRQEN", .B, 0x3300000000#40, 0xFFFFFFFFFE#40⟩,
    ⟨"PWM.IRQCLR", .Z, 0x3400000000#40, 0xFFFFFFFFFF#40⟩,
    ⟨"PWM.TICK", .Z, 0x3F00000000#40, 0xFFFFFFFFFF#40⟩ ]

/-- The rows of the buttons (R104). -/
def btnRows : List TableRow :=
  [ ⟨"BTN0.SAMPLE", .B, 0x4000000000#40, 0xFFFFFFFFFE#40⟩,
    ⟨"BTN0.READ", .Z, 0x4100000000#40, 0xFFFFFFFFFF#40⟩,
    ⟨"BTN0.CLEAR", .Z, 0x4200000000#40, 0xFFFFFFFFFF#40⟩,
    ⟨"BTN1.SAMPLE", .B, 0x5000000000#40, 0xFFFFFFFFFE#40⟩,
    ⟨"BTN1.READ", .Z, 0x5100000000#40, 0xFFFFFFFFFF#40⟩,
    ⟨"BTN1.CLEAR", .Z, 0x5200000000#40, 0xFFFFFFFFFF#40⟩ ]

/-- The rows of CORE (R104). -/
def coreRows : List TableRow :=
  [ ⟨"CORE.WFI", .Z, 0x6000000000#40, 0xFFFFFFFFFF#40⟩,
    ⟨"CORE.CSENTER", .Z, 0x6100000000#40, 0xFFFFFFFFFF#40⟩,
    ⟨"CORE.CSEXIT", .B, 0x6200000000#40, 0xFFFFFFFFFE#40⟩,
    ⟨"CORE.IRQENTRY", .Z, 0x6300000000#40, 0xFFFFFFFFFF#40⟩,
    ⟨"CORE.IRQRET", .Z, 0x6400000000#40, 0xFFFFFFFFFF#40⟩ ]

/-- The opcode table (R104). -/
def opcodeTable : List TableRow := icfRows ++ pwmRows ++ btnRows ++ coreRows

/-- `cw` is of row `r`. -/
def TableRow.fits (r : TableRow) (cw : Cw) : Bool := cw &&& r.mask == r.pattern

/-- A legal CW40 (R106): its `OP` is a row's and every field R102 marks zero holds zeros. -/
def wellFormedWord (cw : Cw) : Bool := opcodeTable.any (·.fits cw)

/-- An operation with no reserved operand value (R108): only `PWM.CFG` has one, `top = 0` or `div = 0`. Every term of
`Instr` encodes, the reserved ones too; what the hardware does with a reserved value is R165's business, not the
decoder's. -/
def Instr.wellFormed : Instr → Bool
  | .pwmCfg div top => div != 0 && top != 0
  | .icf0Write _ => true
  | .icf0Trywrite _ => true
  | .icf0Read => true
  | .icf0Wtick => true
  | .icf0Rtick => true
  | .icf1Write _ => true
  | .icf1Trywrite _ => true
  | .icf1Read => true
  | .icf1Wtick => true
  | .icf1Rtick => true
  | .pwmStart => true
  | .pwmSetduty _ => true
  | .pwmIrqen _ => true
  | .pwmIrqclr => true
  | .pwmTick => true
  | .btn0Sample _ => true
  | .btn0Read => true
  | .btn0Clear => true
  | .btn1Sample _ => true
  | .btn1Read => true
  | .btn1Clear => true
  | .coreWfi => true
  | .coreCsenter => true
  | .coreCsexit _ => true
  | .coreIrqentry => true
  | .coreIrqret => true

end Sys2Proof
end

