-- ==== Sys2Proof/Decode.lean ====
section
/-! DEFINITION. Decoding and encoding of a CW40 (spec/30_encoding.md R100 to R110): the fields, the decoder, total on
any 40 bits, and the encoder. -/

namespace Sys2Proof

/-- `OP = cw[39:32]` (R100). -/
def opField (cw : Cw) : BitVec 8 := cw.extractLsb' 32 8
/-- `ARG = cw[31:0]` (R100). -/
def argField (cw : Cw) : BitVec 32 := cw.extractLsb' 0 32
/-- `BLK = OP[7:4]` (R101). -/
def blkField (op : BitVec 8) : BitVec 4 := op.extractLsb' 4 4
/-- `FN = OP[3:0]` (R101). -/
def fnField (op : BitVec 8) : BitVec 4 := op.extractLsb' 0 4

/-- `div = ARG[31:16]` of format C (R110). -/
def argDiv (arg : BitVec 32) : Reg := arg.extractLsb' 16 16
/-- `top = ARG[15:0]` of format C (R110). -/
def argTop (arg : BitVec 32) : Reg := arg.extractLsb' 0 16
/-- `val = ARG[15:0]` of format H (R110). -/
def argVal (arg : BitVec 32) : Reg := arg.extractLsb' 0 16
/-- `bit = ARG[0]` of format B (R110). -/
def argBit (arg : BitVec 32) : Bool := arg.getLsbD 0

/-- Why a 40-bit value spells no operation (R106): all three are violation V1. -/
inductive DecodeError where
  /-- `BLK` is 0x0 or 0x7 to 0xF (R101). -/
  | illegalBlock
  /-- `FN` is no operation of the block (R104). -/
  | illegalFunction
  /-- A field that R102 marks zero holds a 1. -/
  | nonZeroField
deriving DecidableEq, Repr

/-- Format Z: `ARG` is zero. -/
def formatZ (arg : BitVec 32) (i : Instr) : Except DecodeError Instr :=
  if arg = 0 then .ok i else .error .nonZeroField

/-- Format H: `ARG[31:16]` is zero. -/
def formatH (arg : BitVec 32) (f : Reg → Instr) : Except DecodeError Instr :=
  if arg.extractLsb' 16 16 = 0 then .ok (f (argVal arg)) else .error .nonZeroField

/-- Format B: `ARG[31:1]` is zero. -/
def formatB (arg : BitVec 32) (f : Bool → Instr) : Except DecodeError Instr :=
  if arg.extractLsb' 1 31 = 0 then .ok (f (argBit arg)) else .error .nonZeroField

/-- The operations of a queue instance (R104). -/
def decodeIcf (i : IcfId) (fn : BitVec 4) (arg : BitVec 32) : Except DecodeError Instr :=
  if fn = 0x0 then .ok (.icfWrite i arg)
  else if fn = 0x1 then .ok (.icfTrywrite i arg)
  else if fn = 0x2 then formatZ arg (.icfRead i)
  else if fn = 0xE then formatZ arg (.icfWtick i)
  else if fn = 0xF then formatZ arg (.icfRtick i)
  else .error .illegalFunction

/-- The operations of APWM (R104). -/
def decodePwm (fn : BitVec 4) (arg : BitVec 32) : Except DecodeError Instr :=
  if fn = 0x0 then .ok (.pwmCfg (argDiv arg) (argTop arg))
  else if fn = 0x1 then formatZ arg .pwmStart
  else if fn = 0x2 then formatH arg .pwmSetduty
  else if fn = 0x3 then formatB arg .pwmIrqen
  else if fn = 0x4 then formatZ arg .pwmIrqclr
  else if fn = 0xF then formatZ arg .pwmTick
  else .error .illegalFunction

/-- The operations of a button instance (R104). -/
def decodeBtn (j : BtnId) (fn : BitVec 4) (arg : BitVec 32) : Except DecodeError Instr :=
  if fn = 0x0 then formatB arg (.btnSample j)
  else if fn = 0x1 then formatZ arg (.btnRead j)
  else if fn = 0x2 then formatZ arg (.btnClear j)
  else .error .illegalFunction

/-- The operations of CORE (R104). -/
def decodeCore (fn : BitVec 4) (arg : BitVec 32) : Except DecodeError Instr :=
  if fn = 0x0 then formatZ arg .coreWfi
  else if fn = 0x1 then formatZ arg .coreCsenter
  else if fn = 0x2 then formatB arg .coreCsexit
  else if fn = 0x3 then formatZ arg .coreIrqentry
  else if fn = 0x4 then formatZ arg .coreIrqret
  else .error .illegalFunction

/-- The block is selected by `BLK` (R101). -/
def decodeFields (blk fn : BitVec 4) (arg : BitVec 32) : Except DecodeError Instr :=
  if blk = 0x1 then decodeIcf .icf0 fn arg
  else if blk = 0x2 then decodeIcf .icf1 fn arg
  else if blk = 0x3 then decodePwm fn arg
  else if blk = 0x4 then decodeBtn .btn0 fn arg
  else if blk = 0x5 then decodeBtn .btn1 fn arg
  else if blk = 0x6 then decodeCore fn arg
  else .error .illegalBlock

/-- The decoder, total (R106). -/
def decode (cw : Cw) : Except DecodeError Instr :=
  decodeFields (blkField (opField cw)) (fnField (opField cw)) (argField cw)

/-- `zext_32` of a register value (R11). -/
def argOfReg (v : Reg) : BitVec 32 := v.zeroExtend 32
/-- `zext_32` of a bit (R11). -/
def argOfBit (b : Bool) : BitVec 32 := (BitVec.ofBool b).zeroExtend 32

/-- `OP` of an operation (R104). -/
def opOf : Instr → BitVec 8
  | .icf0Write _ => 0x10
  | .icf0Trywrite _ => 0x11
  | .icf0Read => 0x12
  | .icf0Wtick => 0x1E
  | .icf0Rtick => 0x1F
  | .icf1Write _ => 0x20
  | .icf1Trywrite _ => 0x21
  | .icf1Read => 0x22
  | .icf1Wtick => 0x2E
  | .icf1Rtick => 0x2F
  | .pwmCfg _ _ => 0x30
  | .pwmStart => 0x31
  | .pwmSetduty _ => 0x32
  | .pwmIrqen _ => 0x33
  | .pwmIrqclr => 0x34
  | .pwmTick => 0x3F
  | .btn0Sample _ => 0x40
  | .btn0Read => 0x41
  | .btn0Clear => 0x42
  | .btn1Sample _ => 0x50
  | .btn1Read => 0x51
  | .btn1Clear => 0x52
  | .coreWfi => 0x60
  | .coreCsenter => 0x61
  | .coreCsexit _ => 0x62
  | .coreIrqentry => 0x63
  | .coreIrqret => 0x64

/-- `ARG` of an operation, laid out as R102 and R110 say. -/
def argOf : Instr → BitVec 32
  | .icf0Write w => w
  | .icf0Trywrite w => w
  | .icf0Read => 0
  | .icf0Wtick => 0
  | .icf0Rtick => 0
  | .icf1Write w => w
  | .icf1Trywrite w => w
  | .icf1Read => 0
  | .icf1Wtick => 0
  | .icf1Rtick => 0
  | .pwmCfg div top => div ++ top
  | .pwmStart => 0
  | .pwmSetduty val => argOfReg val
  | .pwmIrqen b => argOfBit b
  | .pwmIrqclr => 0
  | .pwmTick => 0
  | .btn0Sample b => argOfBit b
  | .btn0Read => 0
  | .btn0Clear => 0
  | .btn1Sample b => argOfBit b
  | .btn1Read => 0
  | .btn1Clear => 0
  | .coreWfi => 0
  | .coreCsenter => 0
  | .coreCsexit b => argOfBit b
  | .coreIrqentry => 0
  | .coreIrqret => 0

/-- The encoder: `cw = OP, ARG` (R100). -/
def encode (i : Instr) : Cw := opOf i ++ argOf i

/-- The mnemonic of R104, as spec/opcode_table.json spells it. -/
def mnemonic : Instr → String
  | .icf0Write _ => "ICF0.WRITE"
  | .icf0Trywrite _ => "ICF0.TRYWRITE"
  | .icf0Read => "ICF0.READ"
  | .icf0Wtick => "ICF0.WTICK"
  | .icf0Rtick => "ICF0.RTICK"
  | .icf1Write _ => "ICF1.WRITE"
  | .icf1Trywrite _ => "ICF1.TRYWRITE"
  | .icf1Read => "ICF1.READ"
  | .icf1Wtick => "ICF1.WTICK"
  | .icf1Rtick => "ICF1.RTICK"
  | .pwmCfg _ _ => "PWM.CFG"
  | .pwmStart => "PWM.START"
  | .pwmSetduty _ => "PWM.SETDUTY"
  | .pwmIrqen _ => "PWM.IRQEN"
  | .pwmIrqclr => "PWM.IRQCLR"
  | .pwmTick => "PWM.TICK"
  | .btn0Sample _ => "BTN0.SAMPLE"
  | .btn0Read => "BTN0.READ"
  | .btn0Clear => "BTN0.CLEAR"
  | .btn1Sample _ => "BTN1.SAMPLE"
  | .btn1Read => "BTN1.READ"
  | .btn1Clear => "BTN1.CLEAR"
  | .coreWfi => "CORE.WFI"
  | .coreCsenter => "CORE.CSENTER"
  | .coreCsexit _ => "CORE.CSEXIT"
  | .coreIrqentry => "CORE.IRQENTRY"
  | .coreIrqret => "CORE.IRQRET"

/-- A CW40 as it is written down: ten hexadecimal digits, the most significant first (R100, R73). -/
def hexDigits (cw : Cw) : List (BitVec 4) :=
  (List.range 10).map (fun k => cw.extractLsb' (4 * (9 - k)) 4)

/-- The CW40 that ten hexadecimal digits spell; any other number of digits spells none (R100, R109). -/
def ofHexDigits (ds : List (BitVec 4)) : Option Cw :=
  if ds.length = 10 then some (ds.foldl (fun cw d => (cw <<< 4) ||| d.zeroExtend 40) 0#40) else none

/-- The CW40 of a number as spec/opcode_table.json numbers its bits: a CW40 is ONE word of 40 bits, bit 0 its least
significant (R11, R100; log 14). -/
def cwOfNat (w : Nat) : Cw := BitVec.ofNat 40 w

/-- What the decoder reads from an operation whose bits are `w`. A number that does not fit in `nbits`, or not in the
one length of R109, spells no operation. -/
def decodeTableWord (nbits w : Nat) : Option Instr :=
  if w < 2 ^ nbits ∧ w < 2 ^ 40 then (decode (cwOfNat w)).toOption else none

end Sys2Proof
end

