-- ==== Sys2Proof/Machine/State.lean ====
section
/-! DEFINITION. The state of the machine: the 37 elements of spec/10_state.md R20 as plain data, the model's own fields
beside them, the reasons a step can stop, and the state after reset (R58, R270). -/

namespace Sys2Proof.Machine

/-- The contract violations of spec/60_exceptions.md R238. -/
inductive Violation where
  /-- V1 ILLEGAL_CW. -/
  | v1
  /-- V2 PWM_ORDER. -/
  | v2
  /-- V3 PWM_CFG_RESERVED. -/
  | v3
  /-- V4 DUTY_RANGE. -/
  | v4
  /-- V5 DUTY_UNGUARDED. -/
  | v5
  /-- V6 WFI_MASKED. -/
  | v6
  /-- V7 HANDLER_SCOPE. -/
  | v7
  /-- V8 SPSC. -/
  | v8
  /-- V9 CS_UNBALANCED. -/
  | v9
deriving DecidableEq, Repr

/-- What an operation returns to the agent that issued it (R13, R105). -/
inductive Result where
  /-- No operation has returned yet (the model's own: log 6). -/
  | none
  | done
  /-- `done(b)` of `ICF.TRYWRITE`. -/
  | doneBit (b : BitVec 1)
  /-- `done(w)` of `ICF.READ`. -/
  | doneWord (w : Word)
  /-- `done(r)` of `BTN.SAMPLE`: `r[0] = edge`, `r[1] = level`. -/
  | doneSample (r : BitVec 2)
  /-- `done(r)` of `BTN.READ`: `r[0] = PRESSED`, `r[1] = LEVEL`, `r[3:2] = PLAY` or 0. -/
  | doneButton (r : BitVec 4)
  /-- `done(t)` of `CORE.CSENTER`. -/
  | doneToken (t : BitVec 1)
  | hold
  | ignored (v : Violation)
deriving DecidableEq, Repr

/-- The state machine of APWM (R32); a fourth value cannot be written down (R59, U9). -/
inductive PState where
  | uninit
  | configured
  | running
deriving DecidableEq, Repr

/-- The PlaybackState of BTN0 (R48); a fourth value cannot be written down (R59, U9). -/
inductive Play where
  | idle
  | playing
  | paused
deriving DecidableEq, Repr

/-- The pointer and synchroniser flops of one queue instance (R24 to R27). The slot `MEM` is the machine's memory
(R12, R70) and stands in `Hardware.mem`. -/
structure Icf where
  wptr : Ptr
  rptr : Ptr
  wq1 : Ptr
  wq2 : Ptr
  rq1 : Ptr
  rq2 : Ptr
deriving DecidableEq, Repr

/-- APWM (R32 to R40). -/
structure Apwm where
  pstate : PState
  top : Reg
  div : Reg
  cc : Reg
  ccAct : Reg
  ctr : Reg
  pre : Reg
  wrapIf : Bool
  wrapIe : Bool
deriving DecidableEq, Repr

/-- One button detector (R44 to R47). `s1` and `s2` hold electrical levels, true is high (released); the others hold
logical values, true is pressed (R190). -/
structure Btn where
  s1 : Bool
  s2 : Bool
  level : Bool
  wasDown : Bool
  pressed : Bool
deriving DecidableEq, Repr

/-- CORE, core A's interrupt client (R51 to R53). -/
structure CoreA where
  imask : Bool
  inh : Bool
  waiting : Bool
deriving DecidableEq, Repr

/-- The storage (R12, R70): a list of (instance number, word) pairs, the instance numbers strictly rising; an instance
that is not listed has no value (R23). -/
abbrev Memory := List (Nat × Word)

/-- All the spec gives the machine (R20): `mem` holds `ICF0.MEM` and `ICF1.MEM`, `play` is `BTN0.PLAY`. -/
structure Hardware where
  mem : Memory
  icf0 : Icf
  icf1 : Icf
  apwm : Apwm
  btn0 : Btn
  btn1 : Btn
  play : Play
  core : CoreA
deriving DecidableEq, Repr

/-- The open parameters (R10) and the model's own `refusing` (R240; log 3): false follows the hardware column of R238
at every violation, true refuses as the model column says. -/
structure Params where
  strictContract : Bool
  irqLatencyZero : Bool
  refusing : Bool
deriving DecidableEq, Repr

/-- The last result given to each software agent, and that of the last hardware-agent step (R12, R13; log 6). -/
structure Results where
  prod : Result
  cons : Result
  hand : Result
  clock : Result
deriving DecidableEq, Repr

/-- The state: the hardware, and the MODEL's own fields, none of which the hardware has (R55): the parameters, the
agent that issues the operation being executed, the results given, the violations the last step reported, the inputs
presented next, and how many free inputs have been taken. -/
structure State extends Hardware where
  params : Params
  issuer : Agent
  results : Results
  violations : List Violation
  inputs : List Input
  envIndex : Nat
deriving DecidableEq, Repr

/-- No fault: the hardware traps on nothing (R230; U8: 'None of them is a fault'). -/
inductive Fault where
deriving DecidableEq, Repr

/-- Why a step has no next state. -/
inductive Refusal where
  /-- Raised by exec's arm of an operation that has no meaning yet; there is none. Safe. -/
  | notModelled (mnemonic : String)
  /-- Raised by the step on a 40-bit value that spells no operation: violation V1, refused always, 'nothing was
  presented' to the hardware (R106, R238). Safe. -/
  | illegalWord (e : DecodeError)
  /-- Raised, only where `params.refusing` asks for it, by an operation outside its contract, with every violation it
  reports (R238, R240). Safe. -/
  | contract (vs : List Violation)
  /-- Raised by a step that does not exist: the entry when it is not enabled (R215), an operation of an agent that may
  not step (R210, R241). Safe. -/
  | noSuchStep (agent : Agent)
deriving DecidableEq, Repr

/-- An ICF instance after reset (R24 to R27). -/
def Icf.reset : Icf := ⟨0, 0, 0, 0, 0, 0⟩

/-- APWM after reset (R32 to R40). -/
def Apwm.reset : Apwm := ⟨.uninit, 0, 0, 0, 0, 0, 0, false, false⟩

/-- A button after reset (R44 to R47): released. -/
def Btn.reset : Btn := ⟨true, true, false, false, false⟩

/-- CORE after reset (R51 to R53). -/
def CoreA.reset : CoreA := ⟨false, false, false⟩

/-- The hardware after reset (R58). -/
def Hardware.reset : Hardware :=
  { mem := [], icf0 := .reset, icf1 := .reset, apwm := .reset, btn0 := .reset, btn1 := .reset, play := .playing,
    core := .reset }

/-- The default parameters (R10); `refusing` is the model's (log 3). -/
def Params.reset : Params := ⟨true, false, false⟩

/-- No result has been given. -/
def Results.reset : Results := ⟨.none, .none, .none, .none⟩

/-- The machine right after reset (R58, R270), with no input listed. -/
def State.reset : State :=
  { Hardware.reset with
    params := .reset, issuer := .cons, results := .reset, violations := [], inputs := [], envIndex := 0 }

end Sys2Proof.Machine
end

