-- ==== Sys2Proof/Machine/Operands.lean ====
section
/-! DEFINITION. Operands and results: the pure functions of spec/00_scope.md R14, the encodings of the enumerations
(R32, R48), the layout of a result (R105), and how software forms an operand (R72, R110, R112, R176). -/

namespace Sys2Proof.Machine

/-- The binary-to-Gray function (R14); on one bit it is the identity. -/
def gray {n : Nat} (b : BitVec n) : BitVec n := b ^^^ (b >>> 1)

/-- `rescale(v) = ((v << 4) & 0xFFF) >> 1`, of any 32-bit word (R14, R176, R177 (d)); only `v[7:0]` counts. -/
def rescale (v : Word) : Word := ((v <<< 4) &&& 0xFFF#32) >>> 1

/-- The word the producer sends for a sample: `zext_32(s)` (R72, R110). -/
def sampleWord (s : Sample) : Word := s.zeroExtend 32

/-- The sample the consumer takes from a word: `w[7:0]` (R72, R249). -/
def wordSample (w : Word) : Sample := w.extractLsb' 0 8

/-- The duty value of a sample, placed in `val[10:0]` (R110, R176). -/
def sampleDuty (s : Sample) : Reg := (rescale (sampleWord s)).extractLsb' 0 16

/-- `toggle` (R14, R197): `Idle` is left unchanged. -/
def toggle : Play → Play
  | .playing => .paused
  | .paused => .playing
  | .idle => .idle

/-- The encoding of `PLAY` (R48). -/
def playBits : Play → BitVec 2
  | .idle => 0
  | .playing => 1
  | .paused => 2

/-- The encoding of `PSTATE` (R32). -/
def pstateBits : PState → BitVec 2
  | .uninit => 0
  | .configured => 1
  | .running => 2

/-- The PlaybackState two bits encode; 3 encodes none (R59, U9). -/
def playOfBits (b : BitVec 2) : Option Play :=
  if b = 0 then some .idle else if b = 1 then some .playing else if b = 2 then some .paused else none

/-- The PWM state two bits encode; 3 encodes none (R59, U9). -/
def pstateOfBits (b : BitVec 2) : Option PState :=
  if b = 0 then some .uninit else if b = 1 then some .configured else if b = 2 then some .running else none

/-- The result of a sample: `r[0] = edge`, `r[1] = level` (R105, R192). -/
def sampleResult (edge level : Bool) : BitVec 2 := BitVec.ofBool level ++ BitVec.ofBool edge

/-- The result of `BTN.READ`: `r[0] = PRESSED`, `r[1] = LEVEL`, `r[3:2]` the given bits (R105, R193). -/
def buttonResult (b : Btn) (playField : BitVec 2) : BitVec 4 :=
  playField ++ BitVec.ofBool b.level ++ BitVec.ofBool b.pressed

/-- The pin bit a sample carries is the electrical level: 1 is high, released (R190). The logical level is its
inverse. -/
def logicalLevel (pin : Bool) : Bool := !pin

end Sys2Proof.Machine
end

