-- ==== Sys2Proof/Machine/Flags.lean ====
section
/-! DEFINITION. The flags and outputs that are functions of the state (spec/10_state.md R28, R30, R41, R56), the ports
that carry them (R29, R42, R49), and the condition of the interrupt entry (R215). -/

namespace Sys2Proof.Machine

/-- `full_w = (WPTR != WQ2)`: the write side believes the slot is occupied (R28). -/
def fullW (f : Icf) : Bool := f.wptr != f.wq2

/-- `empty_r = (RPTR == RQ2)`: the read side believes the slot is empty (R28). -/
def emptyR (f : Icf) : Bool := f.rptr == f.rq2

/-- The slot is occupied when `WPTR != RPTR` (R30). -/
def occupied (f : Icf) : Bool := f.wptr != f.rptr

/-- Port `wr_ready = !full_w` (R29). -/
def wrReady (f : Icf) : Bool := !fullW f

/-- Port `rd_valid = !empty_r` (R29). -/
def rdValid (f : Icf) : Bool := !emptyR f

/-- `OUT = (PSTATE == RUNNING) & (CTR < CC_ACT)`, unsigned (R41, R170). -/
def pwmOut (a : Apwm) : Bool := a.pstate == .running && a.ctr.ult a.ccAct

/-- `IRQ = WRAP_IF & WRAP_IE`, a level (R41). -/
def irqLine (a : Apwm) : Bool := a.wrapIf && a.wrapIe

/-- The wrap condition of a tick: `PRE == DIV - 1` and `CTR == TOP - 1` (R171). -/
def atWrap (a : Apwm) : Bool := a.pre == a.div - 1 && a.ctr == a.top - 1

/-- The logical level that has come through the synchroniser: `p = (S2 == 0)` (R192). -/
def syncLevel (b : Btn) : Bool := logicalLevel b.s2

/-- `edge = p & !WAS_DOWN` (R192). -/
def edgeNow (b : Btn) : Bool := syncLevel b && !b.wasDown

/-- `CORE.IRQENTRY` is enabled: `IRQ = 1`, `IMASK = 0`, `INH = 0` (R215). -/
def entryEnabled (h : Hardware) : Bool := irqLine h.apwm && !h.core.imask && !h.core.inh

/-- The outputs of the ports of R29, R42 and R49 and the pin of R41, of one state. -/
structure Ports where
  wrReady0 : Bool
  rdValid0 : Bool
  rdData0 : Option Word
  wrReady1 : Bool
  rdValid1 : Bool
  rdData1 : Option Word
  pwmOut : Bool
  irq : Bool
  level0 : Bool
  pressed0 : Bool
  play : BitVec 2
  level1 : Bool
  pressed1 : Bool
deriving DecidableEq, Repr

end Sys2Proof.Machine
end

