-- ==== Sys2Proof/Machine/Ops.lean ====
section
/-! DEFINITION. The named operations over memory and registers, the two clock edges of a queue, the interrupt entry and
return, and how an operation concludes: its result, its violations, its next state. -/

namespace Sys2Proof.Machine

/-! ### Memory: one word per instance (R12, R70) -/

/-- The instance number of a slot. -/
def slotIndex : IcfId → Nat
  | .icf0 => 0
  | .icf1 => 1

/-- The word listed for `k`; none where none is listed (R23). -/
def memLookup (m : Memory) (k : Nat) : Option Word :=
  match m with
  | [] => none
  | (a, w) :: rest => if a = k then some w else memLookup rest k

/-- `m` with the word `v` for `k`, in canonical form. -/
def memStore (m : Memory) (k : Nat) (v : Word) : Memory :=
  match m with
  | [] => [(k, v)]
  | (a, w) :: rest => if k < a then (k, v) :: (a, w) :: rest else if a = k then (k, v) :: rest else (a, w) :: memStore rest k v

/-- Every instance number of `m` is at least `lo` and below `N_ICF`, and they strictly rise. -/
def memSorted (lo : Nat) (m : Memory) : Bool :=
  match m with
  | [] => true
  | (a, _) :: rest => decide (lo ≤ a) && decide (a < Config.nIcf) && memSorted (a + 1) rest

/-- The canonical form of the memory: equal memories are equal lists. No entry can equal what an unlisted instance
reads as, because that is no value. -/
def Memory.wf (m : Memory) : Bool := memSorted 0 m

/-- `MemRead(i)` (R12); none is 'no value' (R23). -/
def memRead (i : IcfId) (h : Hardware) : Option Word := memLookup h.mem (slotIndex i)

/-- `MemWrite(i, v)` (R12). -/
def memWrite (i : IcfId) (v : Word) (h : Hardware) : Hardware := { h with mem := memStore h.mem (slotIndex i) v }

/-! ### Block instances -/

/-- The flops of queue `i`. -/
def Hardware.icf (h : Hardware) : IcfId → Icf
  | .icf0 => h.icf0
  | .icf1 => h.icf1

/-- `h` with the flops of queue `i` at `f`. -/
def Hardware.setIcf (h : Hardware) (i : IcfId) (f : Icf) : Hardware :=
  match i with
  | .icf0 => { h with icf0 := f }
  | .icf1 => { h with icf1 := f }

/-- The detector of button `j`. -/
def Hardware.btn (h : Hardware) : BtnId → Btn
  | .btn0 => h.btn0
  | .btn1 => h.btn1

/-- `h` with the detector of button `j` at `b`. -/
def Hardware.setBtn (h : Hardware) (j : BtnId) (b : Btn) : Hardware :=
  match j with
  | .btn0 => { h with btn0 := b }
  | .btn1 => { h with btn1 := b }

/-- The abstract single slot: `slot(i) = if WPTR != RPTR then some(MEM) else none` (R30). -/
def slot (i : IcfId) (h : Hardware) : Option (Option Word) :=
  if occupied (h.icf i) then some (memRead i h) else none

/-- The port outputs (R29, R42, R49). -/
def ports (h : Hardware) : Ports :=
  { wrReady0 := wrReady h.icf0, rdValid0 := rdValid h.icf0, rdData0 := memRead .icf0 h,
    wrReady1 := wrReady h.icf1, rdValid1 := rdValid h.icf1, rdData1 := memRead .icf1 h,
    pwmOut := Sys2Proof.Machine.pwmOut h.apwm, irq := irqLine h.apwm,
    level0 := h.btn0.level, pressed0 := h.btn0.pressed, play := playBits h.play,
    level1 := h.btn1.level, pressed1 := h.btn1.pressed }

/-! ### The clock edges of a queue (R131) -/

/-- The write-side synchroniser shifts: `WQ2 <- WQ1`, `WQ1 <- RPTR` (R26, R132). -/
def shiftWriteSync (f : Icf) : Icf := { f with wq2 := f.wq1, wq1 := f.rptr }

/-- The read-side synchroniser shifts: `RQ2 <- RQ1`, `RQ1 <- WPTR` (R27, R136). -/
def shiftReadSync (f : Icf) : Icf := { f with rq2 := f.rq1, rq1 := f.wptr }

/-- A write-side edge with its request, if any (R131 to R134). The request transfers when `wr_ready` was 1 before the
edge (R29); the second component says whether it did. -/
def writeEdge (i : IcfId) (req : Option Word) (h : Hardware) : Hardware × Bool :=
  let f := h.icf i
  let shifted := shiftWriteSync f
  match req with
  | none => (h.setIcf i shifted, false)
  | some w =>
    if wrReady f then (memWrite i w (h.setIcf i { shifted with wptr := f.wptr ^^^ 1 }), true)
    else (h.setIcf i shifted, false)

/-- What a delivered read returns: `MemRead(i)`; of a slot nothing has written, any value (U7; log 4). -/
def slotWord (i : IcfId) (h : Hardware) : Word := (memRead i h).getD (Config.unwrittenSlot (slotIndex i))

/-- A read-side edge, with a read presented or not (R131, R135, R136). The read transfers when `rd_valid` was 1 before
the edge (R29); the second component is the word delivered. -/
def readEdge (i : IcfId) (rdEn : Bool) (h : Hardware) : Hardware × Option Word :=
  let f := h.icf i
  let shifted := shiftReadSync f
  if rdEn && rdValid f then (h.setIcf i { shifted with rptr := f.rptr ^^^ 1 }, some (slotWord i h))
  else (h.setIcf i shifted, none)

/-! ### APWM and the buttons -/

/-- One rising edge of `pclk` (R171). -/
def tick (a : Apwm) : Apwm :=
  if a.pstate = .running then
    if a.pre = a.div - 1 then
      if a.ctr = a.top - 1 then { a with pre := 0, ctr := 0, ccAct := a.cc, wrapIf := true }
      else { a with pre := 0, ctr := a.ctr + 1 }
    else { a with pre := a.pre + 1 }
  else a

/-- One sample of a button (R192), without the PLAY stage. -/
def sampleBtn (bit : Bool) (b : Btn) : Btn :=
  { s1 := bit, s2 := b.s1, level := syncLevel b, wasDown := syncLevel b, pressed := b.pressed || edgeNow b }

/-- One sample of button `j`, with the PLAY stage on BTN0 (R192, R197, R200). -/
def sampleStep (j : BtnId) (bit : Bool) (h : Hardware) : Hardware :=
  let after := h.setBtn j (sampleBtn bit (h.btn j))
  match j with
  | .btn0 => { after with play := if edgeNow h.btn0 then toggle h.play else h.play }
  | .btn1 => after

/-! ### Taking the interrupt, and the return (R215, R216, R242, R244) -/

/-- The entry: it sets `INH` and saves nothing (R215, R242). -/
def takeInterrupt (h : Hardware) : Hardware := { h with core := { h.core with inh := true } }

/-- The return: it clears `INH` and `WAITING` and restores nothing (R216, R244). -/
def returnFromInterrupt (h : Hardware) : Hardware := { h with core := { h.core with inh := false, waiting := false } }

/-! ### Who may issue, and who may step -/

/-- The agents that may issue an operation (R104 column issuer, R245). -/
def permits (a : Agent) : Instr → Bool
  | .icf0Write _ => a = .prod
  | .icf0Trywrite _ => a = .prod
  | .icf0Read => a = .cons
  | .icf0Wtick => a = .wclk .icf0
  | .icf0Rtick => a = .rclk .icf0
  | .icf1Write _ => a = .cons
  | .icf1Trywrite _ => a = .cons
  | .icf1Read => a = .prod
  | .icf1Wtick => a = .wclk .icf1
  | .icf1Rtick => a = .rclk .icf1
  | .pwmCfg _ _ => a = .cons
  | .pwmStart => a = .cons
  | .pwmSetduty _ => a = .cons
  | .pwmIrqen _ => a = .cons
  | .pwmIrqclr => a = .hand
  | .pwmTick => a = .pclk
  | .btn0Sample _ => a = .bclk .btn0
  | .btn0Read => a = .cons
  | .btn0Clear => a = .cons
  | .btn1Sample _ => a = .bclk .btn1
  | .btn1Read => a = .cons
  | .btn1Clear => a = .cons
  | .coreWfi => a = .cons
  | .coreCsenter => a = .cons ∨ a = .hand
  | .coreCsexit _ => a = .cons ∨ a = .hand
  | .coreIrqentry => a = .irq
  | .coreIrqret => a = .hand

/-- The violation of an issuer that R245 does not permit: V8 on the requests of a queue, V7 elsewhere (R238, R245). Of
`HAND` on a queue R244 and R175 say V7: the spec does not settle that, and V8 is the model's choice (log 24). -/
def scopeViolation : Instr → Violation
  | .icf0Write _ => .v8
  | .icf0Trywrite _ => .v8
  | .icf0Read => .v8
  | .icf0Wtick => .v7
  | .icf0Rtick => .v7
  | .icf1Write _ => .v8
  | .icf1Trywrite _ => .v8
  | .icf1Read => .v8
  | .icf1Wtick => .v7
  | .icf1Rtick => .v7
  | .pwmCfg _ _ => .v7
  | .pwmStart => .v7
  | .pwmSetduty _ => .v7
  | .pwmIrqen _ => .v7
  | .pwmIrqclr => .v7
  | .pwmTick => .v7
  | .btn0Sample _ => .v7
  | .btn0Read => .v7
  | .btn0Clear => .v7
  | .btn1Sample _ => .v7
  | .btn1Read => .v7
  | .btn1Clear => .v7
  | .coreWfi => .v7
  | .coreCsenter => .v7
  | .coreCsexit _ => .v7
  | .coreIrqentry => .v7
  | .coreIrqret => .v7

/-- An agent of core A waits for an enabled entry when `IRQ_LATENCY_ZERO` is set (R241). -/
def heldByEntry (s : State) : Bool := s.params.irqLatencyZero && entryEnabled s.toHardware

/-- An agent may take a step (R210, R241). Clocks and `PROD` always may. A hold blocks no agent but `CONS` in its wait: the
rest is the agents' duty (log 10), and so it is for a wait that `HAND` or `PROD` issued (V7), which the spec leaves open
(log 23). -/
def mayStep (s : State) : Agent → Bool
  | .wclk _ => true
  | .rclk _ => true
  | .pclk => true
  | .bclk _ => true
  | .irq => entryEnabled s.toHardware
  | .prod => true
  | .cons => !s.core.inh && !s.core.waiting && !heldByEntry s
  | .hand => s.core.inh && !heldByEntry s
  | .pin _ => false

/-- The step of agent `a` with operation `i` exists: `a` may step, or `i` is `CORE.IRQRET` with no handler running,
which R216 gives a result of its own (log 7); an enabled entry comes before that too where R241 says so. -/
def mayPresent (s : State) (a : Agent) (i : Instr) : Bool :=
  mayStep s a || (decide (a = .hand) && decide (i = .coreIrqret) && !s.core.inh && !heldByEntry s)

/-! ### How an operation concludes -/

/-- A violation an operation reports, and whether a refusing model refuses it whatever STRICT_CONTRACT is (R240). -/
structure Report where
  violation : Violation
  always : Bool
deriving DecidableEq, Repr

/-- The report on the issuer (R238 V7, V8; R245). -/
def scopeReports (a : Agent) (i : Instr) : List Report :=
  if permits a i then [] else [⟨scopeViolation i, false⟩]

/-- What operation `i` of agent `a` reports, where its pseudocode raises `own`: no operation but `PWM.SETDUTY` reports two
violations (R235), so the issuer is reported only where the operation raises nothing itself. Which of the two is kept is
the model's choice (log 8). -/
def operationReports (a : Agent) (i : Instr) (own : List Report) : List Report :=
  match own with
  | [] => scopeReports a i
  | r :: rest => r :: rest

/-- The model refuses a reported violation (R10, R240; log 3). -/
def refuses (p : Params) (r : Report) : Bool := p.refusing && (r.always || p.strictContract)

/-- The result goes to the agent that issued the operation (R12). -/
def Results.give (r : Results) (a : Agent) (v : Result) : Results :=
  match a with
  | .prod => { r with prod := v }
  | .cons => { r with cons := v }
  | .hand => { r with hand := v }
  | .wclk _ => { r with clock := v }
  | .rclk _ => { r with clock := v }
  | .pclk => { r with clock := v }
  | .bclk _ => { r with clock := v }
  | .irq => { r with clock := v }
  | .pin _ => { r with clock := v }

/-- An operation that leaves the hardware at `h`, reports `rs` and returns `v`. -/
def conclude (s : State) (h : Hardware) (rs : List Report) (v : Result) : Host.Outcome State Fault Refusal :=
  if rs.any (refuses s.params) then .refused (.contract (rs.map (·.violation)))
  else .next { s with toHardware := h, results := s.results.give s.issuer v, violations := rs.map (·.violation) }

/-- An operation the hardware ignores (R13): no state of it changes, and the violation `v` its pseudocode raises is the one
it reports (R235, log 8). -/
def ignore (s : State) (v : Violation) : Host.Outcome State Fault Refusal :=
  conclude s s.toHardware [⟨v, true⟩] (.ignored v)

/-- A `CORE.WFI` that is on hold completes, with result `done`, at the return (R211, R216). The `done` is recorded for
`CONS`: of a wait that another agent issued (V7) the spec does not say who gets it, and that is the model's choice
(log 23). -/
def completeWait (s : State) : Results := if s.core.waiting then { s.results with cons := .done } else s.results

/-- The `RESET` step (R270): the hardware at its reset values, every agent at the top of its program (R272). The
parameters, the inputs still to come and the position in the free inputs are not the hardware's. -/
def resetStep (s : State) : State :=
  { State.reset with params := s.params, inputs := s.inputs, envIndex := s.envIndex }

end Sys2Proof.Machine
end

