-- ==== Sys2Proof/Machine/Button.lean ====
section
/-! DEFINITION. The meanings of the button operations (spec/42_button.md R190 to R200). -/

namespace Sys2Proof.Machine

/-- A sample of button `j` (R192); its result is computed from the state before the step. -/
def sampleButton (j : BtnId) (bit : Bool) (op : Instr) (s : State) : Host.Outcome State Fault Refusal :=
  let b := s.toHardware.btn j
  conclude s (sampleStep j bit s.toHardware) (scopeReports s.issuer op)
    (.doneSample (sampleResult (edgeNow b) (syncLevel b)))

/-- `BTNj.READ` (R193): no element changes. -/
def readButton (j : BtnId) (playField : BitVec 2) (op : Instr) (s : State) : Host.Outcome State Fault Refusal :=
  conclude s s.toHardware (scopeReports s.issuer op) (.doneButton (buttonResult (s.toHardware.btn j) playField))

/-- `BTNj.CLEAR` (R194). -/
def clearButton (j : BtnId) (op : Instr) (s : State) : Host.Outcome State Fault Refusal :=
  conclude s (s.toHardware.setBtn j { s.toHardware.btn j with pressed := false }) (scopeReports s.issuer op) .done

/-- `BTN0.SAMPLE bit` (R192). -/
def execBtn0Sample (bit : Bool) (s : State) : Host.Outcome State Fault Refusal := sampleButton .btn0 bit (.btn0Sample bit) s

/-- `BTN0.READ` (R193): bits 3 and 2 are `PLAY`. -/
def execBtn0Read (s : State) : Host.Outcome State Fault Refusal := readButton .btn0 (playBits s.play) .btn0Read s

/-- `BTN0.CLEAR` (R194). -/
def execBtn0Clear (s : State) : Host.Outcome State Fault Refusal := clearButton .btn0 .btn0Clear s

/-- `BTN1.SAMPLE bit` (R192). -/
def execBtn1Sample (bit : Bool) (s : State) : Host.Outcome State Fault Refusal := sampleButton .btn1 bit (.btn1Sample bit) s

/-- `BTN1.READ` (R193): bits 3 and 2 are 0. -/
def execBtn1Read (s : State) : Host.Outcome State Fault Refusal := readButton .btn1 0 .btn1Read s

/-- `BTN1.CLEAR` (R194). -/
def execBtn1Clear (s : State) : Host.Outcome State Fault Refusal := clearButton .btn1 .btn1Clear s

end Sys2Proof.Machine
end

