-- ==== Sys2Proof/Machine/CoreOps.lean ====
section
/-! DEFINITION. The meanings of the CORE operations (spec/43_core.md R210 to R218). -/

namespace Sys2Proof.Machine

/-- `CORE.WFI` (R211): it sets `WAITING` and is on hold until the return; V6 when the mask is closed. -/
def execCoreWfi (s : State) : Host.Outcome State Fault Refusal :=
  conclude s { s.toHardware with core := { s.core with waiting := true } }
    (operationReports s.issuer .coreWfi (if s.core.imask then [⟨.v6, true⟩] else [])) .hold

/-- `CORE.CSENTER` (R213): the result is the mask before the step. -/
def execCoreCsenter (s : State) : Host.Outcome State Fault Refusal :=
  conclude s { s.toHardware with core := { s.core with imask := true } } (scopeReports s.issuer .coreCsenter)
    (.doneToken (BitVec.ofBool s.core.imask))

/-- `CORE.CSEXIT bit` (R214): it writes `bit` to the mask; V9 when no section is open. -/
def execCoreCsexit (bit : Bool) (s : State) : Host.Outcome State Fault Refusal :=
  conclude s { s.toHardware with core := { s.core with imask := bit } }
    (operationReports s.issuer (.coreCsexit bit) (if s.core.imask then [] else [⟨.v9, true⟩])) .done

/-- `CORE.IRQENTRY` (R215): where it is not enabled the step does not exist. -/
def execCoreIrqentry (s : State) : Host.Outcome State Fault Refusal :=
  if entryEnabled s.toHardware then
    conclude s (takeInterrupt s.toHardware) (scopeReports s.issuer .coreIrqentry) .done
  else .refused (.noSuchStep s.issuer)

/-- `CORE.IRQRET` (R216): with no handler running it is ignored (V7); else the handler returns, and a `CORE.WFI` on
hold completes. -/
def execCoreIrqret (s : State) : Host.Outcome State Fault Refusal :=
  if s.core.inh then
    conclude { s with results := completeWait s } (returnFromInterrupt s.toHardware) (scopeReports s.issuer .coreIrqret)
      .done
  else ignore s .v7

end Sys2Proof.Machine
end

