-- ==== Sys2Proof/Machine/Icf.lean ====
section
/-! DEFINITION. The meanings of the queue operations (spec/40_fifo.md R130 to R136), each one clock edge of one side. -/

namespace Sys2Proof.Machine

/-- A write-side edge with no request (R132). -/
def wtickEdge (i : IcfId) (op : Instr) (s : State) : Host.Outcome State Fault Refusal :=
  conclude s (writeEdge i none s.toHardware).1 (scopeReports s.issuer op) .done

/-- A write-side edge with the blocking write (R133): `done`, or `hold` with the word not stored. -/
def blockingWrite (i : IcfId) (w : Word) (op : Instr) (s : State) : Host.Outcome State Fault Refusal :=
  let r := writeEdge i (some w) s.toHardware
  conclude s r.1 (scopeReports s.issuer op) (if r.2 then .done else .hold)

/-- A write-side edge with the non-blocking write (R134): `done(1)`, or `done(0)` with the word not stored. -/
def probingWrite (i : IcfId) (w : Word) (op : Instr) (s : State) : Host.Outcome State Fault Refusal :=
  let r := writeEdge i (some w) s.toHardware
  conclude s r.1 (scopeReports s.issuer op) (.doneBit (BitVec.ofBool r.2))

/-- A read-side edge with no request (R136). -/
def rtickEdge (i : IcfId) (op : Instr) (s : State) : Host.Outcome State Fault Refusal :=
  conclude s (readEdge i false s.toHardware).1 (scopeReports s.issuer op) .done

/-- The result of a read (R135). -/
def readResult : Option Word → Result
  | some w => .doneWord w
  | none => .hold

/-- A read-side edge with the blocking read (R135): the word, or `hold`. -/
def blockingRead (i : IcfId) (op : Instr) (s : State) : Host.Outcome State Fault Refusal :=
  let r := readEdge i true s.toHardware
  conclude s r.1 (scopeReports s.issuer op) (readResult r.2)

/-- `ICF0.WRITE` (R133). -/
def execIcf0Write (w : Word) (s : State) : Host.Outcome State Fault Refusal := blockingWrite .icf0 w (.icf0Write w) s

/-- `ICF0.TRYWRITE` (R134). -/
def execIcf0Trywrite (w : Word) (s : State) : Host.Outcome State Fault Refusal := probingWrite .icf0 w (.icf0Trywrite w) s

/-- `ICF0.READ` (R135). -/
def execIcf0Read (s : State) : Host.Outcome State Fault Refusal := blockingRead .icf0 .icf0Read s

/-- `ICF0.WTICK` (R132). -/
def execIcf0Wtick (s : State) : Host.Outcome State Fault Refusal := wtickEdge .icf0 .icf0Wtick s

/-- `ICF0.RTICK` (R136). -/
def execIcf0Rtick (s : State) : Host.Outcome State Fault Refusal := rtickEdge .icf0 .icf0Rtick s

/-- `ICF1.WRITE` (R133). -/
def execIcf1Write (w : Word) (s : State) : Host.Outcome State Fault Refusal := blockingWrite .icf1 w (.icf1Write w) s

/-- `ICF1.TRYWRITE` (R134). -/
def execIcf1Trywrite (w : Word) (s : State) : Host.Outcome State Fault Refusal := probingWrite .icf1 w (.icf1Trywrite w) s

/-- `ICF1.READ` (R135). -/
def execIcf1Read (s : State) : Host.Outcome State Fault Refusal := blockingRead .icf1 .icf1Read s

/-- `ICF1.WTICK` (R132). -/
def execIcf1Wtick (s : State) : Host.Outcome State Fault Refusal := wtickEdge .icf1 .icf1Wtick s

/-- `ICF1.RTICK` (R136). -/
def execIcf1Rtick (s : State) : Host.Outcome State Fault Refusal := rtickEdge .icf1 .icf1Rtick s

end Sys2Proof.Machine
end

