-- ==== Sys2Proof/Machine/Pwm.lean ====
section
/-! DEFINITION. The meanings of the APWM operations (spec/41_pwm.md R160 to R171). -/

namespace Sys2Proof.Machine

/-- `PWM.CFG div, top` (R165): V2 when the block is configured already, V3 when an operand is 0. -/
def execPwmCfg (div top : Reg) (s : State) : Host.Outcome State Fault Refusal :=
  if s.apwm.pstate ≠ .uninit then ignore s .v2
  else if top = 0 ∨ div = 0 then ignore s .v3
  else
    conclude s { s.toHardware with apwm := { s.apwm with top := top, div := div, pstate := .configured } }
      (scopeReports s.issuer (.pwmCfg div top)) .done

/-- `PWM.START` (R166): V2 in any state but `CONFIGURED`. -/
def execPwmStart (s : State) : Host.Outcome State Fault Refusal :=
  if s.apwm.pstate ≠ .configured then ignore s .v2
  else
    conclude s
      { s.toHardware with apwm := { s.apwm with pstate := .running, ctr := 0, pre := 0, ccAct := s.apwm.cc } }
      (scopeReports s.issuer .pwmStart) .done

/-- V4 when `val > TOP`, then V5 when the foreground writes outside a critical section (R167, R235). -/
def dutyReports (val : Reg) (s : State) : List Report :=
  (if s.apwm.top.ult val then [⟨.v4, false⟩] else []) ++
    (if s.issuer = .cons ∧ s.core.imask = false then [⟨.v5, false⟩] else [])

/-- `PWM.SETDUTY val` (R167): V2 in `UNINIT`; elsewhere `val` is stored, whatever V4 and V5 say. -/
def execPwmSetduty (val : Reg) (s : State) : Host.Outcome State Fault Refusal :=
  if s.apwm.pstate = .uninit then ignore s .v2
  else
    conclude s { s.toHardware with apwm := { s.apwm with cc := val } }
      (operationReports s.issuer (.pwmSetduty val) (dutyReports val s)) .done

/-- `PWM.IRQEN bit` (R168): V2 in `UNINIT`. -/
def execPwmIrqen (bit : Bool) (s : State) : Host.Outcome State Fault Refusal :=
  if s.apwm.pstate = .uninit then ignore s .v2
  else
    conclude s { s.toHardware with apwm := { s.apwm with wrapIe := bit } } (scopeReports s.issuer (.pwmIrqen bit)) .done

/-- `PWM.IRQCLR` (R169), accepted in every `PSTATE`. -/
def execPwmIrqclr (s : State) : Host.Outcome State Fault Refusal :=
  conclude s { s.toHardware with apwm := { s.apwm with wrapIf := false } } (scopeReports s.issuer .pwmIrqclr) .done

/-- `PWM.TICK` (R171). -/
def execPwmTick (s : State) : Host.Outcome State Fault Refusal :=
  conclude s { s.toHardware with apwm := tick s.apwm } (scopeReports s.issuer .pwmTick) .done

end Sys2Proof.Machine
end

