-- ==== Sys2Proof/Machine/Dispatch.lean ====
section
/-! DEFINITION. The dispatch: one arm per operation, each a direct call of its meaning. -/

namespace Sys2Proof.Machine

def exec (i : Instr) (s : State) : Host.Outcome State Fault Refusal :=
  match i with
  | .icf0Write word => Sys2Proof.Machine.execIcf0Write word s
  | .icf0Trywrite word => Sys2Proof.Machine.execIcf0Trywrite word s
  | .icf0Read => Sys2Proof.Machine.execIcf0Read s
  | .icf0Wtick => Sys2Proof.Machine.execIcf0Wtick s
  | .icf0Rtick => Sys2Proof.Machine.execIcf0Rtick s
  | .icf1Write word => Sys2Proof.Machine.execIcf1Write word s
  | .icf1Trywrite word => Sys2Proof.Machine.execIcf1Trywrite word s
  | .icf1Read => Sys2Proof.Machine.execIcf1Read s
  | .icf1Wtick => Sys2Proof.Machine.execIcf1Wtick s
  | .icf1Rtick => Sys2Proof.Machine.execIcf1Rtick s
  | .pwmCfg div top => Sys2Proof.Machine.execPwmCfg div top s
  | .pwmStart => Sys2Proof.Machine.execPwmStart s
  | .pwmSetduty val => Sys2Proof.Machine.execPwmSetduty val s
  | .pwmIrqen bit => Sys2Proof.Machine.execPwmIrqen bit s
  | .pwmIrqclr => Sys2Proof.Machine.execPwmIrqclr s
  | .pwmTick => Sys2Proof.Machine.execPwmTick s
  | .btn0Sample bit => Sys2Proof.Machine.execBtn0Sample bit s
  | .btn0Read => Sys2Proof.Machine.execBtn0Read s
  | .btn0Clear => Sys2Proof.Machine.execBtn0Clear s
  | .btn1Sample bit => Sys2Proof.Machine.execBtn1Sample bit s
  | .btn1Read => Sys2Proof.Machine.execBtn1Read s
  | .btn1Clear => Sys2Proof.Machine.execBtn1Clear s
  | .coreWfi => Sys2Proof.Machine.execCoreWfi s
  | .coreCsenter => Sys2Proof.Machine.execCoreCsenter s
  | .coreCsexit bit => Sys2Proof.Machine.execCoreCsexit bit s
  | .coreIrqentry => Sys2Proof.Machine.execCoreIrqentry s
  | .coreIrqret => Sys2Proof.Machine.execCoreIrqret s

end Sys2Proof.Machine
end

