-- ==== Sys2Proof/Machine/Schedule.lean ====
section
/-! DEFINITION. Where the next step comes from (spec/00_scope.md R7, R15, R55; log 1), what one input does (R106, R210,
R270), and the issuer of an operation placed from outside (log 2). -/

namespace Sys2Proof.Machine

/-- The next input and the state with it taken: the first one listed; where none is listed, a free one. -/
def takeInput (s : State) : Input × State :=
  match s.inputs with
  | x :: rest => (x, { s with inputs := rest })
  | [] => (Config.environment s.envIndex, { s with envIndex := s.envIndex + 1 })

/-- An operation that agent `a` presents, if that step exists (R210, log 7). -/
def present (a : Agent) (i : Instr) (s : State) : Host.Outcome State Fault Refusal :=
  if mayPresent s a i then exec i { s with issuer := a } else .refused (.noSuchStep a)

/-- What one input does: the reset (R270), or the operation its CW40 spells; an illegal CW40 is refused (R106, V1). -/
def applyInput (x : Input) (s : State) : Host.Outcome State Fault Refusal :=
  match x with
  | .reset => .next (resetStep s)
  | .present a cw =>
    match decode cw with
    | .ok i => present a i s
    | .error e => .refused (.illegalWord e)

/-- One step of the machine. -/
def stepOnce (s : State) : Host.Outcome State Fault Refusal :=
  let t := takeInput s
  applyInput t.1 t.2

/-- The agent R104 names for an operation; of the two of a critical section, the one that is running (R245, R246). -/
def issuerOf (s : State) (i : Instr) : Agent :=
  match i with
  | .icf0Write _ => .prod
  | .icf0Trywrite _ => .prod
  | .icf0Read => .cons
  | .icf0Wtick => .wclk .icf0
  | .icf0Rtick => .rclk .icf0
  | .icf1Write _ => .cons
  | .icf1Trywrite _ => .cons
  | .icf1Read => .prod
  | .icf1Wtick => .wclk .icf1
  | .icf1Rtick => .rclk .icf1
  | .pwmCfg _ _ => .cons
  | .pwmStart => .cons
  | .pwmSetduty _ => .cons
  | .pwmIrqen _ => .cons
  | .pwmIrqclr => .hand
  | .pwmTick => .pclk
  | .btn0Sample _ => .bclk .btn0
  | .btn0Read => .cons
  | .btn0Clear => .cons
  | .btn1Sample _ => .bclk .btn1
  | .btn1Read => .cons
  | .btn1Clear => .cons
  | .coreWfi => .cons
  | .coreCsenter => if s.core.inh then .hand else .cons
  | .coreCsexit _ => if s.core.inh then .hand else .cons
  | .coreIrqentry => .irq
  | .coreIrqret => .hand

/-- The agent that presents an operation placed from outside: the one R104 names where its step exists, else `PROD`,
which is always free to step (R210; log 2). -/
def fetchIssuer (s : State) (i : Instr) : Agent :=
  if mayPresent s (issuerOf s i) i then issuerOf s i else .prod

/-- The input that presents the CW40 of the number `w` (log 2). An input holds 40 bits (R109), so of a number of 2^40 or
more the low 40 bits are presented: the spec has no such number, and that is the model's choice (log 14). -/
def fetchInput (s : State) (w : Nat) : Input :=
  match decode (cwOfNat w) with
  | .ok i => .present (fetchIssuer s i) (cwOfNat w)
  | .error _ => .present .prod (cwOfNat w)

end Sys2Proof.Machine
end

