-- ==== Sys2Proof/Machine/Step.lean ====
section
/-! DEFINITION. The step, and an operation placed where the step takes its next one. -/

namespace Sys2Proof.Machine

/-- One step: the next input is taken and applied. -/
def step (s : State) : Host.Outcome State Fault Refusal := stepOnce s

/-- `s` with the operation whose bits are `w` as the next input (log 1, log 2). Every CW40 has 40 bits (R109), so `nbits`
says no more than `w` does; of a number that does not fit in them the low 40 are taken (log 14). -/
def State.withFetchWord (s : State) (_nbits w : Nat) : State := { s with inputs := fetchInput s w :: s.inputs }

end Sys2Proof.Machine
end

