-- ==== Sys2Proof/Laws/Encoding.lean ====
section
/-! SUPPORT. The fields of an encoded operation. -/

namespace Sys2Proof

/-- `OP` of a joined CW40. -/
@[simp] theorem opField_append (op : BitVec 8) (arg : BitVec 32) : opField (op ++ arg) = op := by
  simp only [opField]
  ext k hk
  rw [BitVec.getElem_extractLsb']
  refine (BitVec.getLsbD_append (x := op) (y := arg) (i := 32 + k)).trans ?_
  simp [BitVec.getLsbD_eq_getElem hk]

/-- `ARG` of a joined CW40. -/
@[simp] theorem argField_append (op : BitVec 8) (arg : BitVec 32) : argField (op ++ arg) = arg := by
  simp only [argField]
  ext k hk
  rw [BitVec.getElem_extractLsb']
  refine (BitVec.getLsbD_append (x := op) (y := arg) (i := 0 + k)).trans ?_
  simp [hk]

/-- A CW40 is its two fields, joined. -/
theorem fields_join (cw : Cw) : opField cw ++ argField cw = cw := by
  simp only [opField, argField]
  ext k hk
  refine (BitVec.getElem_append (x := cw.extractLsb' 32 8) (y := cw.extractLsb' 0 32) (i := k) hk).trans ?_
  split
  · simp [BitVec.getLsbD_eq_getElem hk]
  · next h =>
    have : 32 + (k - 32) = k := by omega
    simp [this, BitVec.getLsbD_eq_getElem hk]

/-- `OP` of an encoded operation is the one R104 gives it. -/
@[simp] theorem opField_encode (i : Instr) : opField (encode i) = opOf i := opField_append _ _

/-- `ARG` of an encoded operation is laid out as R102 says. -/
@[simp] theorem argField_encode (i : Instr) : argField (encode i) = argOf i := argField_append _ _

end Sys2Proof
end

