-- ==== Sys2Proof/Laws/PerInstr.lean ====
section
/-! SUPPORT. The per-operation family: the fields of the encoding of every operation, as syntax. -/

namespace Sys2Proof.Laws.EncodingFields

/-- The encoding of an operation has `OP` and `ARG` as R104 and R102 give them. -/
def Statement (i : Instr) : Prop := opField (encode i) = opOf i ∧ argField (encode i) = argOf i

theorem icf0Write (word : Word) : Statement (.icf0Write word) := ⟨opField_encode _, argField_encode _⟩
theorem icf0Trywrite (word : Word) : Statement (.icf0Trywrite word) := ⟨opField_encode _, argField_encode _⟩
theorem icf0Read : Statement (.icf0Read) := ⟨opField_encode _, argField_encode _⟩
theorem icf0Wtick : Statement (.icf0Wtick) := ⟨opField_encode _, argField_encode _⟩
theorem icf0Rtick : Statement (.icf0Rtick) := ⟨opField_encode _, argField_encode _⟩
theorem icf1Write (word : Word) : Statement (.icf1Write word) := ⟨opField_encode _, argField_encode _⟩
theorem icf1Trywrite (word : Word) : Statement (.icf1Trywrite word) := ⟨opField_encode _, argField_encode _⟩
theorem icf1Read : Statement (.icf1Read) := ⟨opField_encode _, argField_encode _⟩
theorem icf1Wtick : Statement (.icf1Wtick) := ⟨opField_encode _, argField_encode _⟩
theorem icf1Rtick : Statement (.icf1Rtick) := ⟨opField_encode _, argField_encode _⟩
theorem pwmCfg (div top : Reg) : Statement (.pwmCfg div top) := ⟨opField_encode _, argField_encode _⟩
theorem pwmStart : Statement (.pwmStart) := ⟨opField_encode _, argField_encode _⟩
theorem pwmSetduty (val : Reg) : Statement (.pwmSetduty val) := ⟨opField_encode _, argField_encode _⟩
theorem pwmIrqen (bit : Bool) : Statement (.pwmIrqen bit) := ⟨opField_encode _, argField_encode _⟩
theorem pwmIrqclr : Statement (.pwmIrqclr) := ⟨opField_encode _, argField_encode _⟩
theorem pwmTick : Statement (.pwmTick) := ⟨opField_encode _, argField_encode _⟩
theorem btn0Sample (bit : Bool) : Statement (.btn0Sample bit) := ⟨opField_encode _, argField_encode _⟩
theorem btn0Read : Statement (.btn0Read) := ⟨opField_encode _, argField_encode _⟩
theorem btn0Clear : Statement (.btn0Clear) := ⟨opField_encode _, argField_encode _⟩
theorem btn1Sample (bit : Bool) : Statement (.btn1Sample bit) := ⟨opField_encode _, argField_encode _⟩
theorem btn1Read : Statement (.btn1Read) := ⟨opField_encode _, argField_encode _⟩
theorem btn1Clear : Statement (.btn1Clear) := ⟨opField_encode _, argField_encode _⟩
theorem coreWfi : Statement (.coreWfi) := ⟨opField_encode _, argField_encode _⟩
theorem coreCsenter : Statement (.coreCsenter) := ⟨opField_encode _, argField_encode _⟩
theorem coreCsexit (bit : Bool) : Statement (.coreCsexit bit) := ⟨opField_encode _, argField_encode _⟩
theorem coreIrqentry : Statement (.coreIrqentry) := ⟨opField_encode _, argField_encode _⟩
theorem coreIrqret : Statement (.coreIrqret) := ⟨opField_encode _, argField_encode _⟩

end Sys2Proof.Laws.EncodingFields
end

