-- ==== Sys2Proof/Machine/Agents.lean ====
section
/-! DEFINITION. Sequences of inputs that the spec names: the pseudo-operations of spec/30_encoding.md R112, the handler
of R217 and R250, the boot order of R277. They are what software presents; the hardware has none of them (R2, R6). -/

namespace Sys2Proof.Machine

/-- Agent `a` presents operation `i`, written as its CW40. -/
def line (a : Agent) (i : Instr) : Input := .present a (encode i)

/-- The agent that writes queue `i` (R130, R285). -/
def writerOf : IcfId → Agent
  | .icf0 => .prod
  | .icf1 => .cons

/-- The agent that reads queue `i` (R130, R285). -/
def readerOf : IcfId → Agent
  | .icf0 => .cons
  | .icf1 => .prod

/-- `ICFi.WRITEB s` (R112). -/
def writeByte (i : IcfId) (s : Sample) : Input := line (writerOf i) (.icfWrite i (sampleWord s))

/-- `PWM.SETSAMPLE s` (R112). -/
def setSample (s : Sample) : Input := line .cons (.pwmSetduty (sampleDuty s))

/-- `ICF1.ACK` (R112, R140): the reserved word 0 of R107. -/
def ack : Input := line .cons (.icf1Trywrite 0)

/-- `CS { ops }` (R112) of agent `a`, where `CORE.CSENTER` returns the token `t`: the exit gives that token back. -/
def criticalSection (a : Agent) (t : Bool) (ops : List Input) : List Input :=
  line a .coreCsenter :: ops ++ [line a (.coreCsexit t)]

/-- `CS { ops }` (R112) of agent `a`, begun in state `s`: the token is the mask that `CORE.CSENTER` finds (R213), so that an
inner section leaves the mask closed and an outer one opens it. -/
def criticalSectionFrom (a : Agent) (s : State) (ops : List Input) : List Input := criticalSection a s.core.imask ops

/-- One edge of `pclk`. -/
def tickLine : Input := line .pclk .pwmTick

/-- `PWM.PERIOD` (R112): `DIV × TOP` ticks. -/
def period (div top : Reg) : List Input := List.replicate (div.toNat * top.toNat) tickLine

/-- The short form of the handler (R217, R250). -/
def handlerShort : List Input := [line .hand .pwmIrqclr, line .hand .coreIrqret]

/-- The long form of the handler (R217), with the token 0 that the section returns there. -/
def handlerLong : List Input := criticalSection .hand false [line .hand .pwmIrqclr] ++ [line .hand .coreIrqret]

/-- `ISR` (R112): one interrupt taken and handled. -/
def isr : List Input := line .irq .coreIrqentry :: handlerShort

/-- The boot order of core A (R277), without the optional first duty. -/
def bootA (div top : Reg) : List Input :=
  [line .cons (.pwmCfg div top), line .cons .pwmStart, line .cons (.pwmIrqen true)]

/-- One emission (R178, R249 step 3): the duty value of a sample, inside a critical section of the foreground, which its
loop enters with the mask open (token 0). -/
def emit (s : Sample) : List Input := criticalSection .cons false [setSample s]

/-- One sample of button `j` with the pin at `bit`. -/
def sampleLine (j : BtnId) (bit : Bool) : Input := line (.bclk j) (.btnSample j bit)

end Sys2Proof.Machine
end

