-- ==== Sys2Proof/Safety.lean ====
section
/-! DEFINITION. What a run is, what a good state is, what a run shows of the queues and the buttons, and the conditions
the spec puts on the outside (contract, fairness, held requests), in the terms the statements use. -/

namespace Sys2Proof.Machine

/-! ### Runs -/

/-- A run over a list of inputs (R111: in order, one step each); it stops where a step does. -/
def runInputs (ins : List Input) (s : State) : Host.Outcome State Fault Refusal :=
  match ins with
  | [] => .next s
  | x :: rest =>
    match applyInput x s with
    | .next t => runInputs rest t
    | .fault r => .fault r
    | .refused r => .refused r

/-- No input of the list is the reset. -/
def noReset (ins : List Input) : Prop := ∀ x ∈ ins, x ≠ .reset

/-- The operation an input presents, if it presents one. -/
def inputOp : Input → Option Instr
  | .reset => none
  | .present _ cw => (decode cw).toOption

/-- The last result given to an agent. -/
def Results.of (r : Results) : Agent → Result
  | .prod => r.prod
  | .cons => r.cons
  | .hand => r.hand
  | .wclk _ => r.clock
  | .rclk _ => r.clock
  | .pclk => r.clock
  | .bclk _ => r.clock
  | .irq => r.clock
  | .pin _ => r.clock

/-! ### Good states -/

/-- The pointer protocol (R31): while the slot is free the reader's view is current and the writer's can lag; while it
is occupied the writer's view is current and the reader's can lag. -/
def icfInv (f : Icf) : Prop :=
  if f.wptr = f.rptr then f.rq1 = f.wptr ∧ f.rq2 = f.wptr ∧ (f.wq2 = f.wptr → f.wq1 = f.wptr)
  else f.wq1 = f.rptr ∧ f.wq2 = f.rptr ∧ (f.rq2 = f.wptr → f.rq1 = f.wptr)

/-- An occupied slot has been written (R31, R273). -/
def slotInv (i : IcfId) (h : Hardware) : Prop := occupied (h.icf i) = true → (memRead i h).isSome = true

/-- APWM (R32 to R40, R161, R171 (b)): all zero before the configuration, at rest before the start, and counting inside
its period while it runs. -/
def apwmInv (a : Apwm) : Prop :=
  match a.pstate with
  | .uninit => a = Apwm.reset
  | .configured => a.top ≠ 0 ∧ a.div ≠ 0 ∧ a.ccAct = 0 ∧ a.ctr = 0 ∧ a.pre = 0 ∧ a.wrapIf = false
  | .running => a.ctr.toNat < a.top.toNat ∧ a.pre.toNat < a.div.toNat

/-- A button (R50): `LEVEL` and `WAS_DOWN` agree. -/
def btnInv (b : Btn) : Prop := b.level = b.wasDown

/-- The invariant of the hardware. -/
structure HwInv (h : Hardware) : Prop where
  mem : Memory.wf h.mem = true
  icf0 : icfInv h.icf0
  icf1 : icfInv h.icf1
  slot0 : slotInv .icf0 h
  slot1 : slotInv .icf1 h
  apwm : apwmInv h.apwm
  btn0 : btnInv h.btn0
  btn1 : btnInv h.btn1
  play : h.play ≠ .idle

/-! ### What a run shows -/

/-- The words a step put into queue `i`: its operation and the result it returned (R133, R134). -/
def acceptedWord (i : IcfId) (op : Instr) (r : Result) : List Word :=
  match op, r with
  | .icf0Write w, .done => if i = .icf0 then [w] else []
  | .icf1Write w, .done => if i = .icf1 then [w] else []
  | .icf0Trywrite w, .doneBit b => if i = .icf0 ∧ b = 1 then [w] else []
  | .icf1Trywrite w, .doneBit b => if i = .icf1 ∧ b = 1 then [w] else []
  | _, _ => []

/-- The words a step took out of queue `i` (R135). -/
def deliveredWord (i : IcfId) (op : Instr) (r : Result) : List Word :=
  match op, r with
  | .icf0Read, .doneWord w => if i = .icf0 then [w] else []
  | .icf1Read, .doneWord w => if i = .icf1 then [w] else []
  | _, _ => []

/-- What one step of a run shows, by a reading `f` of its operation and its result. -/
def shownBy (f : Instr → Result → List Word) (x : Input) (t : State) : List Word :=
  match inputOp x with
  | some op => f op (t.results.of t.issuer)
  | none => []

/-- What a run shows, step by step, as far as it goes. -/
def shown (f : Instr → Result → List Word) (ins : List Input) (s : State) : List Word :=
  match ins with
  | [] => []
  | x :: rest =>
    match applyInput x s with
    | .next t => shownBy f x t ++ shown f rest t
    | .fault _ => []
    | .refused _ => []

/-- The accepted writes of queue `i` along a run, in order (R77). -/
def accepted (i : IcfId) (ins : List Input) (s : State) : List Word := shown (acceptedWord i) ins s

/-- The delivered reads of queue `i` along a run, in order (R77). -/
def delivered (i : IcfId) (ins : List Input) (s : State) : List Word := shown (deliveredWord i) ins s

/-- The words in the slot: one while it is occupied (R30). -/
def inSlot (i : IcfId) (h : Hardware) : List Word := if occupied (h.icf i) then [slotWord i h] else []

/-- An operation that is a write-side edge of queue `i` (R131). -/
def isWriteEdge (i : IcfId) : Instr → Bool
  | .icf0Write _ => i = .icf0
  | .icf0Trywrite _ => i = .icf0
  | .icf0Read => false
  | .icf0Wtick => i = .icf0
  | .icf0Rtick => false
  | .icf1Write _ => i = .icf1
  | .icf1Trywrite _ => i = .icf1
  | .icf1Read => false
  | .icf1Wtick => i = .icf1
  | .icf1Rtick => false
  | .pwmCfg _ _ => false
  | .pwmStart => false
  | .pwmSetduty _ => false
  | .pwmIrqen _ => false
  | .pwmIrqclr => false
  | .pwmTick => false
  | .btn0Sample _ => false
  | .btn0Read => false
  | .btn0Clear => false
  | .btn1Sample _ => false
  | .btn1Read => false
  | .btn1Clear => false
  | .coreWfi => false
  | .coreCsenter => false
  | .coreCsexit _ => false
  | .coreIrqentry => false
  | .coreIrqret => false

/-- An operation that is a read-side edge of queue `i` (R131). -/
def isReadEdge (i : IcfId) : Instr → Bool
  | .icf0Write _ => false
  | .icf0Trywrite _ => false
  | .icf0Read => i = .icf0
  | .icf0Wtick => false
  | .icf0Rtick => i = .icf0
  | .icf1Write _ => false
  | .icf1Trywrite _ => false
  | .icf1Read => i = .icf1
  | .icf1Wtick => false
  | .icf1Rtick => i = .icf1
  | .pwmCfg _ _ => false
  | .pwmStart => false
  | .pwmSetduty _ => false
  | .pwmIrqen _ => false
  | .pwmIrqclr => false
  | .pwmTick => false
  | .btn0Sample _ => false
  | .btn0Read => false
  | .btn0Clear => false
  | .btn1Sample _ => false
  | .btn1Read => false
  | .btn1Clear => false
  | .coreWfi => false
  | .coreCsenter => false
  | .coreCsexit _ => false
  | .coreIrqentry => false
  | .coreIrqret => false

/-- How many inputs of the list present an operation that `p` picks. -/
def countOps (p : Instr → Bool) (ins : List Input) : Nat := ins.countP (fun x => (inputOp x).any p)

/-- The presses in a sequence of electrical levels that leave the synchroniser: the maximal runs of lows, a run that
goes on from before the sequence (`down`) not counted again (R195). -/
def lowRuns (down : Bool) : List Bool → Nat
  | [] => 0
  | true :: rest => lowRuns false rest
  | false :: rest => (if down then 0 else 1) + lowRuns true rest

/-- The levels that leave the synchroniser of `b` at the samples of `pins`: two samples behind the pin (R192 (a)). -/
def leavingLevels (b : Btn) (pins : List Bool) : List Bool := (b.s2 :: b.s1 :: pins).take pins.length

/-- A step that recognised a press of button `j`: `r[0] = edge` (R105, R192). -/
def pressEvent (j : BtnId) (op : Instr) (r : Result) : List Word :=
  match op, r with
  | .btn0Sample _, .doneSample b => if j = .btn0 ∧ b.getLsbD 0 then [1] else []
  | .btn1Sample _, .doneSample b => if j = .btn1 ∧ b.getLsbD 0 then [1] else []
  | _, _ => []

/-! ### The contract (R240) and the conditions on the outside -/

/-- The parameters refuse the violations that the hardware cannot detect (R10, R240). -/
def strictlyRefusing (p : Params) : Bool := p.refusing && p.strictContract

/-- What an operation reports on its issuer: nothing where R245 permits it (R238 V7, V8; of a clock or `irq`, and of a clock
step that software presents, log 19; of `HAND` on a queue, log 24). -/
def issuerViolations (s : State) (i : Instr) : List Violation := if permits s.issuer i then [] else [scopeViolation i]

/-- What an operation reports where its pseudocode raises `own`: those, and its issuer only where it raises nothing (R235,
log 8). -/
def reportedViolations (s : State) (i : Instr) (own : List Violation) : List Violation :=
  if own = [] then issuerViolations s i else own

/-- The issuer is no reason to refuse: R245 permits it, or the parameters follow the hardware there. -/
def issuerTolerated (s : State) (i : Instr) : Prop := permits s.issuer i = true ∨ strictlyRefusing s.params = false

/-- The trace is inside the contract, from reset, under STRICT_CONTRACT or not: a refusing model accepts it (R240). -/
def withinContract (strict : Bool) (ins : List Input) : Bool :=
  match runInputs ins { State.reset with params := { State.reset.params with strictContract := strict, refusing := true } } with
  | .next _ => true
  | .fault _ => false
  | .refused _ => false

/-- The clocks of the machine (R15). -/
inductive Clock where
  | wclk (i : IcfId)
  | rclk (i : IcfId)
  | pclk
  | bclk (j : BtnId)
deriving DecidableEq, Repr

/-- An operation that is an edge of a clock (R15, R131). -/
def isEdgeOf (c : Clock) (i : Instr) : Bool :=
  match c with
  | .wclk q => isWriteEdge q i
  | .rclk q => isReadEdge q i
  | .pclk => i = .pwmTick
  | .bclk .btn0 => i = .btn0Sample true ∨ i = .btn0Sample false
  | .bclk .btn1 => i = .btn1Sample true ∨ i = .btn1Sample false

/-- Every clock has infinitely many edges in a sequence of inputs (R7, R82). The free inputs owe it; no step can see it
(log 17). -/
def fairClocks (env : Nat → Input) : Prop := ∀ c : Clock, ∀ n : Nat, ∃ m, n ≤ m ∧ (inputOp (env m)).any (isEdgeOf c) = true

/-- `st` is the run of the machine under the endless sequence of inputs `env`: no step of it stops. -/
def isRun (env : Nat → Input) (st : Nat → State) : Prop := ∀ n : Nat, applyInput (env n) (st n) = .next (st (n + 1))

/-- An entry that stays enabled is eventually taken (R241, R7): the latency is finite, and no number bounds it. The free
inputs owe it; no step can see it (log 17). -/
def fairEntry (env : Nat → Input) (st : Nat → State) : Prop :=
  ∀ n : Nat, (∀ m, n ≤ m → entryEnabled (st m).toHardware = true) → ∃ m, n ≤ m ∧ inputOp (env m) = some .coreIrqentry

/-- One line of a trace (R111): who presented what, and the result. -/
structure TraceLine where
  agent : Agent
  op : Instr
  result : Result
deriving DecidableEq, Repr

/-- The line that a step leaves in the trace (R111): the input that was presented and the result its agent was given. A
reset leaves none. -/
def lineOf (x : Input) (t : State) : Option TraceLine := (inputOp x).map (fun i => ⟨t.issuer, i, t.results.of t.issuer⟩)

/-- The clocks whose edges carry requests (R131). -/
def requestClocks : List Clock := [.wclk .icf0, .rclk .icf0, .wclk .icf1, .rclk .icf1]

/-- Two operations are edges of one request clock (R13, R131). -/
def sameClock (i j : Instr) : Bool := requestClocks.any (fun c => isEdgeOf c i && isEdgeOf c j)

/-- A line keeps the request `i` that agent `a` holds in the state before it (R13, R281): a line of `a` is `i` again, and so
is every edge of the clock of `i`. An edge without the request is allowed where `a` has no step: `CONS` while a handler
runs, at a tick (R243), and wherever else R210 or R241 gives it none (log 10). -/
def keepsRequest (a : Agent) (i : Instr) (s : State) (l : TraceLine) : Bool :=
  if l.agent = a then decide (l.op = i) else !(sameClock i l.op && mayStep s a)

/-- What agent `a` holds after a line, if it held `held` before. A `CORE.WFI` is ended by the return instead of by
presenting it again (R211), so its agent holds no request; that this is so of a wait that `HAND` or `PROD` issued (V7) too
is the model's choice (log 23). -/
def heldAfter (a : Agent) (held : Option Instr) (l : TraceLine) : Option Instr :=
  if l.agent = a then (if l.result = .hold ∧ l.op ≠ .coreWfi then some l.op else none) else held

/-- Agent `a` keeps its held requests along a run from `s`, as far as the run goes, where it holds `held` in `s` (R13, R81,
R281). The reset ends every hold (R272). -/
def keepsHeld (a : Agent) (held : Option Instr) (ins : List Input) (s : State) : Bool :=
  match ins with
  | [] => true
  | x :: rest =>
    match applyInput x s with
    | .next t =>
      match lineOf x t with
      | some l => held.all (fun i => keepsRequest a i s l) && keepsHeld a (heldAfter a held l) rest t
      | none => keepsHeld a none rest t
    | .fault _ => true
    | .refused _ => true

end Sys2Proof.Machine
end

