-- ==== Sys2Proof/Certificates/Slice0/Obligations.lean ====
section
/-! DEFINITION. The statements for the provers. Each says in its docstring which rule of spec/ it formalises. -/

open Sys2Proof Sys2Proof.Machine

/-! ### Encoding -/

/-- Every operation, with every value of every operand, is read back from its CW40 (R100, R102, R104, R110). -/
def Obligations.DecodeEncodeRoundTrip : Prop := ∀ i : Instr, decode (encode i) = .ok i

/-- Each legal CW40 has one meaning and one spelling: what decodes encodes to the same 40 bits (R100 to R104). -/
def Obligations.EncodeDecodeRoundTrip : Prop := ∀ (cw : Cw) (i : Instr), decode cw = .ok i → encode i = cw

/-- R106: the decoder accepts exactly the 40-bit values that fit a row of the opcode table; such a value fits exactly
one row, the row of the operation it decodes to; any other value is refused as illegal, whoever presents it, and no
next state exists. -/
def Obligations.DecodeAcceptsExactlyTable : Prop :=
  ∀ cw : Cw,
    (wellFormedWord cw = true →
      ∃ i, decode cw = .ok i ∧ (opcodeTable.filter (fun r => r.fits cw)).map (fun r => r.mnemonic) = [mnemonic i]) ∧
    (wellFormedWord cw = false →
      ∀ (a : Agent) (s : State), ∃ e, applyInput (.present a cw) s = .refused (.illegalWord e))

/-- Words written out from R100 to R104, one of each block and some illegal ones (95_test_vectors.md 2.0). -/
def Obligations.DecodeWrittenWords : Prop :=
  decode 0x1000000080#40 = .ok (.icf0Write 0x80#32) ∧
  decode 0x2100000000#40 = .ok (.icf1Trywrite 0#32) ∧
  decode 0x3000011000#40 = .ok (.pwmCfg 1#16 4096#16) ∧
  decode 0x32000007F8#40 = .ok (.pwmSetduty 2040#16) ∧
  decode 0x5000000001#40 = .ok (.btn1Sample true) ∧
  decode 0x6200000001#40 = .ok (.coreCsexit true) ∧
  decode 0x7000000000#40 = .error .illegalBlock ∧
  decode 0x3500000000#40 = .error .illegalFunction ∧
  decode 0x3200010000#40 = .error .nonZeroField

/-- A CW40 is written as ten hexadecimal digits, the most significant first, and they spell it back (R100). -/
def Obligations.HexDigitsSpellWord : Prop :=
  ∀ cw : Cw, (hexDigits cw).length = 10 ∧ (hexDigits cw).head? = some (blkField (opField cw)) ∧
    ofHexDigits (hexDigits cw) = some cw

/-! ### The step -/

/-- A step runs the decoded operation: when the next input presents a CW40 that decodes to `i` and the step of that
agent exists (R210), the step is exec of `i` with that agent as issuer and the input taken. The input list is the
model's (log 1). -/
def Obligations.StepRunsDecoded : Prop :=
  ∀ (s : State) (a : Agent) (cw : Cw) (rest : List Input) (i : Instr),
    s.inputs = .present a cw :: rest → decode cw = .ok i → mayPresent s a i = true →
    step s = exec i { s with inputs := rest, issuer := a }

/-- The model's choice (log 1): where no input is listed the step applies the next free input, whatever it is. -/
def Obligations.StepTakesFreeInput : Prop :=
  ∀ s : State, s.inputs = [] →
    step s = applyInput (Config.environment s.envIndex) { s with envIndex := s.envIndex + 1 }

/-- The model's choice (log 2): an operation placed in any state is the one the very next step runs, issued by an agent
whose step exists. -/
def Obligations.PlacedWordRunsNext : Prop :=
  ∀ (s : State) (i : Instr),
    mayPresent s (fetchIssuer s i) i = true ∧
    step (s.withFetchWord 40 (encode i).toNat) = exec i { s with issuer := fetchIssuer s i }

/-- R210 with R215, R216, R241, for every operation. `CONS` has no step while `INH = 1` or `WAITING = 1`, nor while an
enabled entry comes before it under IRQ_LATENCY_ZERO, and steps in every other state; `HAND` has none while `INH = 0` but a
`CORE.IRQRET`, which R216 ignores there, and steps while `INH = 1`; the agent `irq` has none while the entry is not enabled
and takes its entry while it is; `PROD` and the clocks step in every state and `PIN` in none. That an operation which is not
the agent's own runs there is R238 (V7, V8; of a clock and of `irq` log 19), and that a missing step is a refusal is log 7. -/
def Obligations.OnlyRunningAgentSteps : Prop :=
  ∀ (s : State) (i : Instr),
    (s.core.inh = true ∨ s.core.waiting = true → present .cons i s = .refused (.noSuchStep .cons)) ∧
    (s.core.inh = false → s.core.waiting = false →
      s.params.irqLatencyZero = false ∨ entryEnabled s.toHardware = false →
      present .cons i s = exec i { s with issuer := .cons }) ∧
    (s.core.inh = false → i ≠ .coreIrqret → present .hand i s = .refused (.noSuchStep .hand)) ∧
    (s.core.inh = false → s.params.irqLatencyZero = false ∨ entryEnabled s.toHardware = false →
      present .hand .coreIrqret s = exec .coreIrqret { s with issuer := .hand }) ∧
    (s.core.inh = true → present .hand i s = exec i { s with issuer := .hand }) ∧
    (s.params.irqLatencyZero = true → entryEnabled s.toHardware = true →
      present .cons i s = .refused (.noSuchStep .cons) ∧ present .hand i s = .refused (.noSuchStep .hand)) ∧
    (entryEnabled s.toHardware = false →
      present .irq i s = .refused (.noSuchStep .irq) ∧
      ∀ a, present a .coreIrqentry s = .refused (.noSuchStep a)) ∧
    (entryEnabled s.toHardware = true →
      present .irq .coreIrqentry s = exec .coreIrqentry { s with issuer := .irq }) ∧
    present .prod i s = exec i { s with issuer := .prod } ∧
    present .pclk i s = exec i { s with issuer := .pclk } ∧
    (∀ q, present (.wclk q) i s = exec i { s with issuer := .wclk q } ∧
      present (.rclk q) i s = exec i { s with issuer := .rclk q }) ∧
    ∀ j, present (.bclk j) i s = exec i { s with issuer := .bclk j } ∧
      present (.pin j) i s = .refused (.noSuchStep (.pin j))

/-! ### Reset -/

/-- R58: from any state the RESET step leaves every element of the hardware at the value R58 gathers; `MEM` has no value
(R23). -/
def Obligations.ResetGivesResetValues : Prop :=
  ∀ s : State, ∃ t, applyInput .reset s = .next t ∧
    (∀ q, memRead q t.toHardware = none) ∧
    (∀ q, t.toHardware.icf q = { wptr := 0, rptr := 0, wq1 := 0, wq2 := 0, rq1 := 0, rq2 := 0 }) ∧
    (∀ q, occupied (t.toHardware.icf q) = false ∧ fullW (t.toHardware.icf q) = false ∧
      emptyR (t.toHardware.icf q) = true) ∧
    t.apwm = { pstate := .uninit, top := 0, div := 0, cc := 0, ccAct := 0, ctr := 0, pre := 0, wrapIf := false,
               wrapIe := false } ∧
    (∀ j, t.toHardware.btn j = { s1 := true, s2 := true, level := false, wasDown := false, pressed := false }) ∧
    t.play = .playing ∧ t.core = { imask := false, inh := false, waiting := false }

/-- The model's choice (log 11): the RESET step leaves the parameters, the inputs still to come and the position in the
free inputs as they are, and the initial state is the same hardware. -/
def Obligations.ResetKeepsModelFields : Prop :=
  ∀ s : State, ∃ t, applyInput .reset s = .next t ∧ t.params = s.params ∧ t.inputs = s.inputs ∧
    t.envIndex = s.envIndex ∧ t.violations = [] ∧ t.toHardware = State.reset.toHardware

/-- What follows from the reset values for the functions of state (R271): both queues accept a write and deliver no
read, the pin is low, no interrupt is requested, `CONS` may step and `HAND` may not; and the ports of R29, R42, R49. -/
def Obligations.ResetFlags : Prop :=
  (∀ q, fullW (State.reset.toHardware.icf q) = false ∧ emptyR (State.reset.toHardware.icf q) = true ∧
    slot q State.reset.toHardware = none) ∧
  pwmOut State.reset.apwm = false ∧ irqLine State.reset.apwm = false ∧
  mayStep State.reset .cons = true ∧ mayStep State.reset .hand = false ∧ mayStep State.reset .irq = false ∧
  ports State.reset.toHardware =
    { wrReady0 := true, rdValid0 := false, rdData0 := none, wrReady1 := true, rdValid1 := false, rdData1 := none,
      pwmOut := false, irq := false, level0 := false, pressed0 := false, play := 1, level1 := false, pressed1 := false }

/-- From reset, however a run goes on, no interrupt is requested and no entry exists until `PWM.IRQEN 1` has been
presented (R271: 'no interrupt can occur until software has issued'). -/
def Obligations.NoInterruptBeforeUnmask : Prop :=
  ∀ (ins : List Input) (t : State), noReset ins → (∀ x ∈ ins, inputOp x ≠ some (.pwmIrqen true)) →
    runInputs ins State.reset = .next t →
    irqLine t.apwm = false ∧ ∀ a, present a .coreIrqentry t = .refused (.noSuchStep a)

/-- The boot order of core A runs from reset for every legal divider and top, and leaves the carrier running with
its line unmasked, duty 0 and the output low (R277, R166 (b)); it is inside the contract (R240). -/
def Obligations.BootReachesRunning : Prop :=
  ∀ div top : Reg, div ≠ 0 → top ≠ 0 → ∃ t, runInputs (bootA div top) State.reset = .next t ∧
    t.apwm = { pstate := .running, top := top, div := div, cc := 0, ccAct := 0, ctr := 0, pre := 0, wrapIf := false,
               wrapIe := true } ∧
    pwmOut t.apwm = false ∧ t.violations = [] ∧ withinContract true (bootA div top) = true

/-! ### The queues -/

/-- `ICF0.WRITE`, `ICF1.WRITE` (R133), both outcomes, and the whole state: accepted where `full_w = 0`, the word stored and
`WPTR` toggled; else `hold` with nothing but the synchroniser shifted. An issuer that is not the writer is reported as V8,
the handler too (R238; log 24 for HAND, the model's choice). -/
def Obligations.IcfWriteAcceptedOrHeld : Prop :=
  ∀ (q : IcfId) (w : Word) (s : State), issuerTolerated s (.icfWrite q w) →
    (fullW (s.toHardware.icf q) = false →
      exec (.icfWrite q w) s = .next { s with
        toHardware := memWrite q w (s.toHardware.setIcf q
          { s.toHardware.icf q with
            wptr := (s.toHardware.icf q).wptr ^^^ 1, wq2 := (s.toHardware.icf q).wq1, wq1 := (s.toHardware.icf q).rptr }),
        results := s.results.give s.issuer .done, violations := issuerViolations s (.icfWrite q w) }) ∧
    (fullW (s.toHardware.icf q) = true →
      exec (.icfWrite q w) s = .next { s with
        toHardware := s.toHardware.setIcf q
          { s.toHardware.icf q with wq2 := (s.toHardware.icf q).wq1, wq1 := (s.toHardware.icf q).rptr },
        results := s.results.give s.issuer .hold, violations := issuerViolations s (.icfWrite q w) })

/-- `ICF0.TRYWRITE`, `ICF1.TRYWRITE` (R134), both outcomes, and the whole state: test and write in one step, result 1
where the word is accepted and 0 where it is not; never `hold`. An issuer that is not the writer is reported as V8, the
handler too (R238; log 24 for HAND, the model's choice). -/
def Obligations.IcfTrywriteAcceptedOrNot : Prop :=
  ∀ (q : IcfId) (w : Word) (s : State), issuerTolerated s (.icfTrywrite q w) →
    (fullW (s.toHardware.icf q) = false →
      exec (.icfTrywrite q w) s = .next { s with
        toHardware := memWrite q w (s.toHardware.setIcf q
          { s.toHardware.icf q with
            wptr := (s.toHardware.icf q).wptr ^^^ 1, wq2 := (s.toHardware.icf q).wq1, wq1 := (s.toHardware.icf q).rptr }),
        results := s.results.give s.issuer (.doneBit 1), violations := issuerViolations s (.icfTrywrite q w) }) ∧
    (fullW (s.toHardware.icf q) = true →
      exec (.icfTrywrite q w) s = .next { s with
        toHardware := s.toHardware.setIcf q
          { s.toHardware.icf q with wq2 := (s.toHardware.icf q).wq1, wq1 := (s.toHardware.icf q).rptr },
        results := s.results.give s.issuer (.doneBit 0), violations := issuerViolations s (.icfTrywrite q w) })

/-- `ICF0.READ`, `ICF1.READ` (R135), both outcomes, and the whole state: delivered where `empty_r = 0`, all 32 bits of
`MEM` and `RPTR` toggled, `MEM` kept; else `hold` with nothing but the synchroniser shifted. A slot with no value (which
no run from reset reads) delivers any value (U7, log 4). An issuer that is not the reader is reported as V8, the handler
too (R238; log 24 for HAND, the model's choice). -/
def Obligations.IcfReadDeliveredOrHeld : Prop :=
  ∀ (q : IcfId) (s : State), issuerTolerated s (.icfRead q) →
    (emptyR (s.toHardware.icf q) = false →
      exec (.icfRead q) s = .next { s with
        toHardware := s.toHardware.setIcf q
          { s.toHardware.icf q with
            rptr := (s.toHardware.icf q).rptr ^^^ 1, rq2 := (s.toHardware.icf q).rq1, rq1 := (s.toHardware.icf q).wptr },
        results := s.results.give s.issuer
          (.doneWord ((memRead q s.toHardware).getD (Config.unwrittenSlot (slotIndex q)))),
        violations := issuerViolations s (.icfRead q) }) ∧
    (emptyR (s.toHardware.icf q) = true →
      exec (.icfRead q) s = .next { s with
        toHardware := s.toHardware.setIcf q
          { s.toHardware.icf q with rq2 := (s.toHardware.icf q).rq1, rq1 := (s.toHardware.icf q).wptr },
        results := s.results.give s.issuer .hold, violations := issuerViolations s (.icfRead q) })

/-- `ICF0.WTICK`, `ICF1.WTICK` (R132) and `ICF0.RTICK`, `ICF1.RTICK` (R136), the whole state: only the synchroniser of the
side shifts; and from a good state `full_w` (`empty_r`) never rises. That an edge presented by an agent other than the clock
of the side runs too and reports V7 is R238 as log 19 reads it (DEDUCED), and no part of R132 or R136. -/
def Obligations.IcfTicksShiftSynchroniser : Prop :=
  ∀ (q : IcfId) (s : State),
    (issuerTolerated s (.icfWtick q) →
      exec (.icfWtick q) s = .next { s with
        toHardware := s.toHardware.setIcf q
          { s.toHardware.icf q with wq2 := (s.toHardware.icf q).wq1, wq1 := (s.toHardware.icf q).rptr },
        results := s.results.give s.issuer .done, violations := issuerViolations s (.icfWtick q) }) ∧
    (issuerTolerated s (.icfRtick q) →
      exec (.icfRtick q) s = .next { s with
        toHardware := s.toHardware.setIcf q
          { s.toHardware.icf q with rq2 := (s.toHardware.icf q).rq1, rq1 := (s.toHardware.icf q).wptr },
        results := s.results.give s.issuer .done, violations := issuerViolations s (.icfRtick q) }) ∧
    (icfInv (s.toHardware.icf q) →
      (∀ t, exec (.icfWtick q) s = .next t → fullW (s.toHardware.icf q) = false → fullW (t.toHardware.icf q) = false) ∧
      (∀ t, exec (.icfRtick q) s = .next t → emptyR (s.toHardware.icf q) = false → emptyR (t.toHardware.icf q) = false))

/-- The storage (R12): `MemRead(i)` after `MemWrite(i, v)` is `v`, the other slot keeps its word, and the canonical form
is kept. -/
def Obligations.SlotReadAfterWrite : Prop :=
  ∀ (q r : IcfId) (w : Word) (h : Hardware),
    memRead q (memWrite q w h) = some w ∧ (r ≠ q → memRead r (memWrite q w h) = memRead r h) ∧
    (Memory.wf h.mem = true → Memory.wf (memWrite q w h).mem = true)

/-- R31 (a), (b): where the pointer protocol holds, `full_w = 0` implies the slot is free and `empty_r = 0` implies it is
occupied; (c): both flags can be stale in states that runs from reset reach. -/
def Obligations.FlagsStaleInSafeDirection : Prop :=
  (∀ f : Icf, icfInv f →
    (fullW f = false → occupied f = false) ∧ (emptyR f = false → occupied f = true)) ∧
  (∃ ins t, runInputs ins State.reset = .next t ∧ occupied t.icf0 = false ∧ fullW t.icf0 = true) ∧
  (∃ ins t, runInputs ins State.reset = .next t ∧ occupied t.icf0 = true ∧ emptyR t.icf0 = true)

/-- R137: the hardware implements the single slot, for every operation from every good state: an accepted write happens
only when `slot = none` and makes it `some(word)`; a delivered read happens only when `slot = some(w)`, returns `w` and
makes it `none`; every other operation leaves the slot unchanged. -/
def Obligations.IcfImplementsSlot : Prop :=
  ∀ (q : IcfId) (op : Instr) (s t : State), HwInv s.toHardware → exec op s = .next t →
    (∀ w, acceptedWord q op (t.results.of t.issuer) = [w] →
      slot q s.toHardware = none ∧ slot q t.toHardware = some (some w)) ∧
    (∀ w, deliveredWord q op (t.results.of t.issuer) = [w] →
      slot q s.toHardware = some (some w) ∧ slot q t.toHardware = none) ∧
    (acceptedWord q op (t.results.of t.issuer) = [] → deliveredWord q op (t.results.of t.issuer) = [] →
      slot q t.toHardware = slot q s.toHardware)

/-- R77: strict order, exactly-once delivery, no drops, along every run from every good state: what was in the slot and
then the accepted words are the delivered words and then what is in the slot. From reset the delivered words are the
accepted words but for the last one while it is in the slot: the `k`-th delivered read returns the `k`-th accepted word. -/
def Obligations.QueueKeepsOrder : Prop :=
  ∀ (q : IcfId) (ins : List Input) (s t : State), noReset ins → HwInv s.toHardware → runInputs ins s = .next t →
    inSlot q s.toHardware ++ accepted q ins s = delivered q ins s ++ inSlot q t.toHardware ∧
    (s = State.reset → accepted q ins s = delivered q ins s ++ inSlot q t.toHardware ∧
      (inSlot q t.toHardware).length ≤ 1)

/-- R78: along every run from reset the accepted writes and the delivered reads alternate: the writes are ahead by one while
the slot is occupied and by none while it is free. Every beginning of a run is a run, so this holds after each step. -/
def Obligations.WritesAndReadsAlternate : Prop :=
  ∀ (q : IcfId) (ins : List Input) (t : State), noReset ins → runInputs ins State.reset = .next t →
    (accepted q ins State.reset).length =
      (delivered q ins State.reset).length + (if occupied (t.toHardware.icf q) = true then 1 else 0)

/-- R82, R282: a stale flag is stale for at most two edges of the side that holds it: along any run that delivers nothing
from an occupied slot, `rd_valid` is 1 once two read-side edges have passed; that accepts nothing into a free slot, `wr_ready`
is 1 once two write-side edges have passed. -/
def Obligations.StaleFlagsBounded : Prop :=
  ∀ (q : IcfId) (ins : List Input) (s t : State), noReset ins → HwInv s.toHardware → runInputs ins s = .next t →
    (occupied (s.toHardware.icf q) = true → delivered q ins s = [] → 2 ≤ countOps (isReadEdge q) ins →
      rdValid (t.toHardware.icf q) = true) ∧
    (occupied (s.toHardware.icf q) = false → accepted q ins s = [] → 2 ≤ countOps (isWriteEdge q) ins →
      wrReady (t.toHardware.icf q) = true)

/-- R283, along any run: after an accepted write, whatever other steps fall between, no read is delivered up to the second
read-side edge that follows it, with a read presented or not; `rd_valid` is 0 before that edge and 1 after it; the next read
delivers the word. -/
def Obligations.WriteReadableAtThirdEdge : Prop :=
  ∀ (q : IcfId) (w : Word) (op : Instr) (ins : List Input) (s s₁ t : State), icfInv (s.toHardware.icf q) →
    exec op s = .next s₁ → acceptedWord q op (s₁.results.of s₁.issuer) = [w] → noReset ins →
    runInputs ins s₁ = .next t → countOps (isReadEdge q) ins ≤ 2 →
    delivered q ins s₁ = [] ∧ rdValid (t.toHardware.icf q) = decide (countOps (isReadEdge q) ins = 2) ∧
    (countOps (isReadEdge q) ins = 2 → ∀ a, issuerTolerated { t with issuer := a } (.icfRead q) →
      ∃ u, exec (.icfRead q) { t with issuer := a } = .next u ∧ u.results.of a = .doneWord w)

/-- R284, along any run: after a delivered read, whatever other steps fall between, no write is accepted up to the second
write-side edge that follows it, whatever is presented; `wr_ready` is 0 before that edge and 1 after it; the next write, of
either kind, is accepted. -/
def Obligations.ReadWritableAtThirdEdge : Prop :=
  ∀ (q : IcfId) (w : Word) (op : Instr) (ins : List Input) (s s₁ t : State), icfInv (s.toHardware.icf q) →
    exec op s = .next s₁ → deliveredWord q op (s₁.results.of s₁.issuer) = [w] → noReset ins →
    runInputs ins s₁ = .next t → countOps (isWriteEdge q) ins ≤ 2 →
    accepted q ins s₁ = [] ∧ wrReady (t.toHardware.icf q) = decide (countOps (isWriteEdge q) ins = 2) ∧
    (countOps (isWriteEdge q) ins = 2 → ∀ (a : Agent) (v : Word),
      (issuerTolerated { t with issuer := a } (.icfWrite q v) →
        ∃ u, exec (.icfWrite q v) { t with issuer := a } = .next u ∧ u.results.of a = .done) ∧
      (issuerTolerated { t with issuer := a } (.icfTrywrite q v) →
        ∃ u, exec (.icfTrywrite q v) { t with issuer := a } = .next u ∧ u.results.of a = .doneBit 1))

/-! ### APWM -/

/-- `PWM.CFG` (R165), the whole state: in `UNINIT` with both operands non-zero it writes `TOP`, `DIV` and `PSTATE` in one
step; else it is ignored, V2 before V3, and a refusing model refuses it. Of an issuer that R245 does not permit, V2 or V3 is
reported and V7 is not: that is log 8, the model's choice. -/
def Obligations.PwmCfgOnce : Prop :=
  ∀ (div top : Reg) (s : State),
    (s.apwm.pstate = .uninit → top ≠ 0 → div ≠ 0 → issuerTolerated s (.pwmCfg div top) →
      exec (.pwmCfg div top) s = .next { s with
        apwm := { s.apwm with top := top, div := div, pstate := .configured },
        results := s.results.give s.issuer .done, violations := issuerViolations s (.pwmCfg div top) }) ∧
    (s.apwm.pstate ≠ .uninit → s.params.refusing = false →
      exec (.pwmCfg div top) s = .next { s with
        results := s.results.give s.issuer (.ignored .v2),
        violations := [.v2] }) ∧
    (s.apwm.pstate ≠ .uninit → s.params.refusing = true →
      exec (.pwmCfg div top) s = .refused (.contract [.v2])) ∧
    (s.apwm.pstate = .uninit → top = 0 ∨ div = 0 → s.params.refusing = false →
      exec (.pwmCfg div top) s = .next { s with
        results := s.results.give s.issuer (.ignored .v3),
        violations := [.v3] }) ∧
    (s.apwm.pstate = .uninit → top = 0 ∨ div = 0 → s.params.refusing = true →
      exec (.pwmCfg div top) s = .refused (.contract [.v3]))

/-- `PWM.START` (R166), the whole state: in `CONFIGURED` it runs the carrier from 0 with the duty written so far; else it
is ignored (V2). `OUT` becomes `0 < CC`, `WRAP_IF` is not touched. Of an issuer that R245 does not permit, V2 is reported and
V7 is not: that is log 8, the model's choice. -/
def Obligations.PwmStartRuns : Prop :=
  ∀ s : State,
    (s.apwm.pstate = .configured → issuerTolerated s .pwmStart →
      exec .pwmStart s = .next { s with
        apwm := { s.apwm with pstate := .running, ctr := 0, pre := 0, ccAct := s.apwm.cc },
        results := s.results.give s.issuer .done, violations := issuerViolations s .pwmStart } ∧
      pwmOut { s.apwm with pstate := .running, ctr := 0, pre := 0, ccAct := s.apwm.cc } = decide (s.apwm.cc ≠ 0)) ∧
    (s.apwm.pstate ≠ .configured → s.params.refusing = false →
      exec .pwmStart s = .next { s with
        results := s.results.give s.issuer (.ignored .v2), violations := [.v2] }) ∧
    (s.apwm.pstate ≠ .configured → s.params.refusing = true →
      exec .pwmStart s = .refused (.contract [.v2]))

/-- `PWM.SETDUTY` (R167), the whole state: outside `UNINIT` it writes `CC` and nothing else of the hardware, whatever V4
(above `TOP`) and V5 (foreground outside a critical section) report; a strictly refusing model refuses what is reported; in
`UNINIT` it is ignored (V2). Of an issuer that R245 does not permit, what the operation raises is reported and V7 only where
it raises nothing: that is log 8, the model's choice. -/
def Obligations.PwmSetdutyWritesCompare : Prop :=
  ∀ (val : Reg) (s : State),
    let vs : List Violation := reportedViolations s (.pwmSetduty val)
      ((if s.apwm.top.toNat < val.toNat then [.v4] else []) ++
        (if s.issuer = .cons ∧ s.core.imask = false then [.v5] else []))
    (s.apwm.pstate ≠ .uninit → strictlyRefusing s.params = false ∨ vs = [] →
      exec (.pwmSetduty val) s = .next { s with
        apwm := { s.apwm with cc := val }, results := s.results.give s.issuer .done, violations := vs }) ∧
    (s.apwm.pstate ≠ .uninit → strictlyRefusing s.params = true → vs ≠ [] →
      exec (.pwmSetduty val) s = .refused (.contract vs)) ∧
    (s.apwm.pstate = .uninit → s.params.refusing = false →
      exec (.pwmSetduty val) s = .next { s with
        results := s.results.give s.issuer (.ignored .v2),
        violations := [.v2] }) ∧
    (s.apwm.pstate = .uninit → s.params.refusing = true →
      exec (.pwmSetduty val) s = .refused (.contract [.v2]))

/-- `PWM.IRQEN` (R168), the whole state: outside `UNINIT` it writes `WRAP_IE`, so `IRQ = WRAP_IF & bit` in the same step;
in `UNINIT` it is ignored (V2). Of an issuer that R245 does not permit, V2 is reported and V7 is not: that is log 8, the
model's choice. -/
def Obligations.PwmIrqenMasksLine : Prop :=
  ∀ (bit : Bool) (s : State),
    (s.apwm.pstate ≠ .uninit → issuerTolerated s (.pwmIrqen bit) →
      exec (.pwmIrqen bit) s = .next { s with
        apwm := { s.apwm with wrapIe := bit }, results := s.results.give s.issuer .done,
        violations := issuerViolations s (.pwmIrqen bit) } ∧
      irqLine { s.apwm with wrapIe := bit } = (s.apwm.wrapIf && bit)) ∧
    (s.apwm.pstate = .uninit → s.params.refusing = false →
      exec (.pwmIrqen bit) s = .next { s with
        results := s.results.give s.issuer (.ignored .v2), violations := [.v2] }) ∧
    (s.apwm.pstate = .uninit → s.params.refusing = true →
      exec (.pwmIrqen bit) s = .refused (.contract [.v2]))

/-- `PWM.IRQCLR` (R169), the whole state, in every `PSTATE`: `WRAP_IF` to 0, so `IRQ` to 0; an issuer that is not `HAND`
is reported as V7. -/
def Obligations.PwmIrqclrClearsFlag : Prop :=
  ∀ s : State,
    (issuerTolerated s .pwmIrqclr →
      exec .pwmIrqclr s = .next { s with
        apwm := { s.apwm with wrapIf := false }, results := s.results.give s.issuer .done,
        violations := issuerViolations s .pwmIrqclr } ∧
      irqLine { s.apwm with wrapIf := false } = false) ∧
    (s.issuer ≠ .hand → issuerViolations s .pwmIrqclr = [.v7])

/-- `PWM.TICK` (R171), the whole state, all four branches: no change outside `RUNNING`; the divider counts; the counter
counts; the wrap resets both, loads `CC_ACT` from `CC` and sets `WRAP_IF`, whatever `WRAP_IE` is. That a tick presented by an agent other than
`pclk` counts too and reports V7 is R238 as log 19 reads it (DEDUCED), and no part of R171. -/
def Obligations.PwmTickCounts : Prop :=
  ∀ s : State, issuerTolerated s .pwmTick →
    let after (a : Apwm) : Host.Outcome State Fault Refusal := .next { s with
      apwm := a, results := s.results.give s.issuer .done, violations := issuerViolations s .pwmTick }
    (s.apwm.pstate ≠ .running → exec .pwmTick s = after s.apwm) ∧
    (s.apwm.pstate = .running → s.apwm.pre ≠ s.apwm.div - 1 →
      exec .pwmTick s = after { s.apwm with pre := s.apwm.pre + 1 }) ∧
    (s.apwm.pstate = .running → s.apwm.pre = s.apwm.div - 1 → s.apwm.ctr ≠ s.apwm.top - 1 →
      exec .pwmTick s = after { s.apwm with pre := 0, ctr := s.apwm.ctr + 1 }) ∧
    (s.apwm.pstate = .running → s.apwm.pre = s.apwm.div - 1 → s.apwm.ctr = s.apwm.top - 1 →
      exec .pwmTick s = after { s.apwm with pre := 0, ctr := 0, ccAct := s.apwm.cc, wrapIf := true })

/-- R161: `PSTATE` only advances, by no operation but `PWM.CFG` and `PWM.START`, and `TOP` and `DIV` are fixed once the
block is configured; an operation that the table of R161 does not accept changes nothing of the hardware. -/
def Obligations.PwmStateOnlyAdvances : Prop :=
  ∀ (i : Instr) (s t : State), exec i s = .next t →
    (pstateBits s.apwm.pstate).toNat ≤ (pstateBits t.apwm.pstate).toNat ∧
    (t.apwm.pstate ≠ s.apwm.pstate →
      (s.apwm.pstate = .uninit ∧ t.apwm.pstate = .configured ∧ ∃ d p, i = .pwmCfg d p) ∨
      (s.apwm.pstate = .configured ∧ t.apwm.pstate = .running ∧ i = .pwmStart)) ∧
    (s.apwm.pstate ≠ .uninit → t.apwm.top = s.apwm.top ∧ t.apwm.div = s.apwm.div) ∧
    ((s.apwm.pstate ≠ .uninit ∧ ∃ d p, i = .pwmCfg d p) ∨ (s.apwm.pstate ≠ .configured ∧ i = .pwmStart) ∨
      (s.apwm.pstate = .uninit ∧ ((∃ v, i = .pwmSetduty v) ∨ ∃ b, i = .pwmIrqen b)) →
      t.toHardware = s.toHardware ∧ t.results.of t.issuer = .ignored .v2)

/-- R172: from a start or a wrap (`CTR = PRE = 0`) the next wrap is exactly `DIV × TOP` ticks later: before it the counter
has counted one step each `DIV` ticks and the flag is as it was; at it `CC_ACT` is loaded and the flag set. The other blocks
do not change. -/
def Obligations.PwmPeriodExact : Prop :=
  ∀ s : State, s.apwm.pstate = .running → s.apwm.top ≠ 0 → s.apwm.div ≠ 0 → s.apwm.ctr = 0 → s.apwm.pre = 0 →
    (∀ k : Nat, k < s.apwm.div.toNat * s.apwm.top.toNat →
      ∃ t, runInputs (List.replicate k tickLine) s = .next t ∧
        t.toHardware = { s.toHardware with apwm := { s.apwm with
          ctr := BitVec.ofNat 16 (k / s.apwm.div.toNat), pre := BitVec.ofNat 16 (k % s.apwm.div.toNat) } }) ∧
    ∃ t, runInputs (period s.apwm.div s.apwm.top) s = .next t ∧
      t.toHardware = { s.toHardware with apwm := { s.apwm with ctr := 0, pre := 0, ccAct := s.apwm.cc, wrapIf := true } }

/-- R170: the output is high exactly where the carrier runs and `CTR < CC_ACT`, unsigned; in a period `CTR` takes each value
for `DIV` ticks, and the output is high for the first `min(CC_ACT, TOP) × DIV` ticks and low for the rest. -/
def Obligations.PwmOutputProportional : Prop :=
  (∀ a : Apwm, pwmOut a = true ↔ a.pstate = .running ∧ a.ctr.toNat < a.ccAct.toNat) ∧
  ∀ s : State, s.apwm.pstate = .running → s.apwm.top ≠ 0 → s.apwm.div ≠ 0 → s.apwm.ctr = 0 → s.apwm.pre = 0 →
    ∀ k : Nat, k < s.apwm.div.toNat * s.apwm.top.toNat →
      ∃ t, runInputs (List.replicate k tickLine) s = .next t ∧ t.apwm.ctr.toNat = k / s.apwm.div.toNat ∧
        (pwmOut t.apwm = true ↔ k < min s.apwm.ccAct.toNat s.apwm.top.toNat * s.apwm.div.toNat)

/-- One emission (R178, R249 step 3): with the carrier running, no section open and `TOP` at least 2040, the duty write of a
sample inside a critical section leaves `CC` at 8 times the sample and the core as it was, whatever the parameters refuse. -/
def Obligations.EmissionWritesDuty : Prop :=
  ∀ (v : Sample) (s : State), s.apwm.pstate = .running → s.core = { imask := false, inh := false, waiting := false } →
    s.params.irqLatencyZero = false → 2040 ≤ s.apwm.top.toNat →
    ∃ t, runInputs (emit v) s = .next t ∧ t.apwm = { s.apwm with cc := BitVec.ofNat 16 (8 * v.toNat) } ∧
      t.core = s.core ∧ t.violations = []

/-- R236: set wins over clear. `PWM.IRQCLR` and a wrap at one edge are the clear and then the tick: the flag ends at 1;
`BTN.CLEAR` and an edge sample at one edge are the clear and then the sample: the flag ends at 1. -/
def Obligations.SetWinsOverClear : Prop :=
  ∀ s : State,
    (s.apwm.pstate = .running → atWrap s.apwm = true → s.core.inh = true →
      ∃ t, runInputs [line .hand .pwmIrqclr, tickLine] s = .next t ∧ t.apwm.wrapIf = true) ∧
    (∀ (j : BtnId) (bit : Bool), edgeNow (s.toHardware.btn j) = true →
      s.core.inh = false → s.core.waiting = false → s.params.irqLatencyZero = false →
      ∃ t, runInputs [line .cons (.btnClear j), sampleLine j bit] s = .next t ∧ (t.toHardware.btn j).pressed = true)

/-- R177: (a) the duty value of a sample is 8 times it; (b) at most 2040 and a multiple of 8; (c) strictly increasing;
(d) of a wider word only the low byte counts; (e) the selected values. -/
def Obligations.RescaleLaws : Prop :=
  (∀ v : Sample, (rescale (sampleWord v)).toNat = 8 * v.toNat ∧ (sampleDuty v).toNat = 8 * v.toNat) ∧
  (∀ v : Sample, (rescale (sampleWord v)).toNat ≤ 2040 ∧ 8 ∣ (rescale (sampleWord v)).toNat) ∧
  (∀ u v : Sample, u.toNat < v.toNat → (rescale (sampleWord u)).toNat < (rescale (sampleWord v)).toNat) ∧
  (∀ w : Word, (rescale w).toNat = 8 * (wordSample w).toNat) ∧
  rescale 0 = 0 ∧ rescale 1 = 8 ∧ rescale 127 = 1016 ∧ rescale 128 = 1024 ∧ rescale 255 = 2040

/-! ### The buttons -/

/-- `BTN0.SAMPLE`, `BTN1.SAMPLE` (R192), the whole state: the synchroniser shifts; `LEVEL` and `WAS_DOWN` take the level
that has come through; `PRESSED` is set at an edge; on BTN0 an edge toggles `PLAY`; the result is the edge and the level.
That a sample presented by an agent other than `bclk(j)` runs too and reports V7 is R238 as log 19 reads it (DEDUCED), and no part of R192. -/
def Obligations.BtnSampleDetectsEdge : Prop :=
  ∀ (j : BtnId) (bit : Bool) (s : State), issuerTolerated s (.btnSample j bit) →
    let b := s.toHardware.btn j
    let p := !b.s2
    let edge := p && !b.wasDown
    ∃ t, exec (.btnSample j bit) s = .next t ∧
      t.toHardware.btn j = { s1 := bit, s2 := b.s1, level := p, wasDown := p, pressed := b.pressed || edge } ∧
      t.play = (if j = .btn0 ∧ edge = true then toggle s.play else s.play) ∧
      t.results = s.results.give s.issuer (.doneSample (BitVec.ofBool p ++ BitVec.ofBool edge)) ∧
      t.violations = issuerViolations s (.btnSample j bit) ∧
      (∀ k, k ≠ j → t.toHardware.btn k = s.toHardware.btn k) ∧
      t.mem = s.mem ∧ t.icf0 = s.icf0 ∧ t.icf1 = s.icf1 ∧ t.apwm = s.apwm ∧ t.core = s.core ∧
      t.params = s.params ∧ t.issuer = s.issuer ∧ t.inputs = s.inputs ∧ t.envIndex = s.envIndex

/-- `BTN0.READ`, `BTN1.READ` (R193): nothing of the hardware changes; bit 0 is `PRESSED`, bit 1 `LEVEL`, bits 3 and 2 `PLAY`
on BTN0 and 0 on BTN1. That an operation whose issuer R245 does not permit runs too and reports V7 is R238 (of a clock and of
`irq` log 19), and no part of R193. -/
def Obligations.BtnReadReturnsFlags : Prop :=
  ∀ s : State,
    (issuerTolerated s .btn0Read →
      exec .btn0Read s = .next { s with
        results := s.results.give s.issuer
          (.doneButton (playBits s.play ++ BitVec.ofBool s.btn0.level ++ BitVec.ofBool s.btn0.pressed)),
        violations := issuerViolations s .btn0Read }) ∧
    (issuerTolerated s .btn1Read →
      exec .btn1Read s = .next { s with
        results := s.results.give s.issuer
          (.doneButton (0#2 ++ BitVec.ofBool s.btn1.level ++ BitVec.ofBool s.btn1.pressed)),
        violations := issuerViolations s .btn1Read })

/-- `BTN0.CLEAR`, `BTN1.CLEAR` (R194), the whole state: `PRESSED` to 0 and nothing else. That an operation whose issuer R245
does not permit runs too and reports V7 is R238 (of a clock and of `irq` log 19), and no part of R194. -/
def Obligations.BtnClearClearsLatch : Prop :=
  ∀ s : State,
    (issuerTolerated s .btn0Clear →
      exec .btn0Clear s = .next { s with
        btn0 := { s.btn0 with pressed := false }, results := s.results.give s.issuer .done,
        violations := issuerViolations s .btn0Clear }) ∧
    (issuerTolerated s .btn1Clear →
      exec .btn1Clear s = .next { s with
        btn1 := { s.btn1 with pressed := false }, results := s.results.give s.issuer .done,
        violations := issuerViolations s .btn1Clear })

/-- R195, R198: for any sequence of samples the steps with `edge = 1` are as many as the maximal runs of lows in the
levels that leave the synchroniser, and `PLAY` toggles once for each on BTN0 and never on BTN1. -/
def Obligations.OneEventPerPress : Prop :=
  ∀ (j : BtnId) (pins : List Bool) (s : State), ∃ t, runInputs (pins.map (sampleLine j)) s = .next t ∧
    (shown (pressEvent j) (pins.map (sampleLine j)) s).length =
      lowRuns (s.toHardware.btn j).wasDown (leavingLevels (s.toHardware.btn j) pins) ∧
    t.play = (if j = .btn0 then
        toggle^[lowRuns (s.toHardware.btn j).wasDown (leavingLevels (s.toHardware.btn j) pins)] s.play
      else s.play)

/-- R293: a button held low through reset is a press, reported at the third sample and not before; on BTN0 it pauses. -/
def Obligations.HeldThroughResetIsPress : Prop :=
  ∀ j : BtnId, (State.reset.toHardware.btn j).s1 = true ∧ (State.reset.toHardware.btn j).s2 = true ∧
    (State.reset.toHardware.btn j).wasDown = false ∧
    ∃ t₁ t₂ t₃, runInputs [sampleLine j false] State.reset = .next t₁ ∧ t₁.results.clock = .doneSample 0 ∧
      runInputs [sampleLine j false] t₁ = .next t₂ ∧ t₂.results.clock = .doneSample 0 ∧
      (t₂.toHardware.btn j).pressed = false ∧ t₂.play = .playing ∧
      runInputs [sampleLine j false] t₂ = .next t₃ ∧ t₃.results.clock = .doneSample 3 ∧
      (t₃.toHardware.btn j).pressed = true ∧ t₃.play = (if j = .btn0 then .paused else .playing)

/-! ### CORE and the interrupt -/

/-- `CORE.WFI` (R211), the whole state: it sets `WAITING` and holds; with the mask closed it reports V6, which a refusing
model refuses. Of an issuer that R245 does not permit, V6 is reported and V7 is not: that is log 8, the model's choice. -/
def Obligations.WfiSuspends : Prop :=
  ∀ s : State,
    (s.core.imask = false → issuerTolerated s .coreWfi →
      exec .coreWfi s = .next { s with
        core := { s.core with waiting := true }, results := s.results.give s.issuer .hold,
        violations := issuerViolations s .coreWfi }) ∧
    (s.core.imask = true → s.params.refusing = false →
      exec .coreWfi s = .next { s with
        core := { s.core with waiting := true }, results := s.results.give s.issuer .hold, violations := [.v6] }) ∧
    (s.core.imask = true → s.params.refusing = true → exec .coreWfi s = .refused (.contract [.v6]))

/-- R211, V6: a wait with the mask closed never ends: while every operation comes from an agent R245 permits and nobody
resets, core A stays suspended with its mask closed. -/
def Obligations.MaskedWaitNeverEnds : Prop :=
  ∀ (ins : List Input) (s t : State),
    (∀ x ∈ ins, ∃ a cw i, x = .present a cw ∧ decode cw = .ok i ∧ permits a i = true) →
    s.core = { imask := true, inh := false, waiting := true } → runInputs ins s = .next t → t.core = s.core

/-- `CORE.CSENTER` (R213), the whole state: the result is the mask before the step, and the mask closes. That
an operation whose issuer R245 does not permit (`PROD`, a clock) runs too and reports V7 is R238 (of a clock and of `irq`
log 19), and no part of R213. -/
def Obligations.CsenterClosesMask : Prop :=
  ∀ s : State, issuerTolerated s .coreCsenter →
    exec .coreCsenter s = .next { s with
      core := { s.core with imask := true },
      results := s.results.give s.issuer (.doneToken (BitVec.ofBool s.core.imask)),
      violations := issuerViolations s .coreCsenter }

/-- `CORE.CSEXIT` (R214), the whole state: the token is written to the mask; with no section open it reports V9, which a
refusing model refuses. Of an issuer that R245 does not permit, V9 is reported and V7 is not: that is log 8, the model's
choice. -/
def Obligations.CsexitRestoresMask : Prop :=
  ∀ (bit : Bool) (s : State),
    (s.core.imask = true → issuerTolerated s (.coreCsexit bit) →
      exec (.coreCsexit bit) s = .next { s with
        core := { s.core with imask := bit }, results := s.results.give s.issuer .done,
        violations := issuerViolations s (.coreCsexit bit) }) ∧
    (s.core.imask = false → s.params.refusing = false →
      exec (.coreCsexit bit) s = .next { s with
        core := { s.core with imask := bit }, results := s.results.give s.issuer .done, violations := [.v9] }) ∧
    (s.core.imask = false → s.params.refusing = true →
      exec (.coreCsexit bit) s = .refused (.contract [.v9]))

/-- `CORE.IRQENTRY` (R215), the whole state: where `WRAP_IF & WRAP_IE`, `IMASK = 0` and `INH = 0` it sets `INH` and nothing
else; elsewhere the step does not exist. That an entry presented by an agent other than `irq` sets `INH` too where it is
enabled, and reports V7, is R238 as log 19 reads it (DEDUCED), and no part of R215. -/
def Obligations.IrqentrySetsInHandler : Prop :=
  ∀ s : State,
    (s.apwm.wrapIf = true → s.apwm.wrapIe = true → s.core.imask = false → s.core.inh = false →
      issuerTolerated s .coreIrqentry →
      exec .coreIrqentry s = .next { s with
        core := { s.core with inh := true }, results := s.results.give s.issuer .done,
        violations := issuerViolations s .coreIrqentry }) ∧
    (s.apwm.wrapIf = false ∨ s.apwm.wrapIe = false ∨ s.core.imask = true ∨ s.core.inh = true →
      exec .coreIrqentry s = .refused (.noSuchStep s.issuer))

/-- `CORE.IRQRET` (R216), the whole state: while a handler runs it clears `INH` and `WAITING`, and a `CORE.WFI` on hold
completes with `done`; with no handler running it is ignored (V7) and a refusing model refuses it. That the `done` is
recorded for CONS also where another agent issued the wait is the model's choice (log 6, log 23). -/
def Obligations.IrqretReturns : Prop :=
  ∀ s : State,
    (s.core.inh = true → issuerTolerated s .coreIrqret →
      exec .coreIrqret s = .next { s with
        core := { s.core with inh := false, waiting := false },
        results := (if s.core.waiting = true then { s.results with cons := .done } else s.results).give s.issuer .done,
        violations := issuerViolations s .coreIrqret }) ∧
    (s.core.inh = false → s.params.refusing = false →
      exec .coreIrqret s = .next { s with
        results := s.results.give s.issuer (.ignored .v7), violations := [.v7] }) ∧
    (s.core.inh = false → s.params.refusing = true → exec .coreIrqret s = .refused (.contract [.v7]))

/-- R212: a wait that ends has seen one whole handler execution, begun after it was issued, and exactly one: one entry,
then no other entry and no return until the return that ends the wait. -/
def Obligations.WaitSeesOneHandlerRun : Prop :=
  ∀ (ins : List Input) (s t : State), noReset ins → s.core.waiting = true → s.core.inh = false →
    runInputs ins s = .next t → t.core.waiting = false →
    ∃ pre x mid y post u, ins = pre ++ x :: (mid ++ y :: post) ∧
      inputOp x = some .coreIrqentry ∧ inputOp y = some .coreIrqret ∧
      (∀ z ∈ pre ++ mid, inputOp z ≠ some .coreIrqentry) ∧ (∀ z ∈ mid, inputOp z ≠ some .coreIrqret) ∧
      runInputs (pre ++ x :: (mid ++ [y])) s = .next u ∧ u.core.waiting = false ∧ u.core.inh = false

/-- R241, R211: the latency is finite. Along every endless run in which an entry that stays enabled is eventually taken and
every operation comes from an agent R245 permits, an interrupt that finds core A waiting with the entry enabled is taken,
at some later step, whatever the clocks and core B do meanwhile. -/
def Obligations.PendingInterruptEndsUpTaken : Prop :=
  ∀ (env : Nat → Input) (st : Nat → State), isRun env st → fairEntry env st →
    (∀ n, ∃ a cw i, env n = .present a cw ∧ decode cw = .ok i ∧ permits a i = true) →
    ∀ n, (st n).core.waiting = true → entryEnabled (st n).toHardware = true →
      ∃ m, n ≤ m ∧ inputOp (env m) = some .coreIrqentry ∧ (st m).core.inh = false ∧ (st (m + 1)).core.inh = true

/-- R217: entered with the mask open, both forms of the handler run and end in the same state. -/
def Obligations.HandlerFormsAgree : Prop :=
  ∀ s : State, s.core.inh = true → s.core.imask = false →
    ∃ t, runInputs handlerShort s = .next t ∧ runInputs handlerLong s = .next t

/-- R83 (c): inside a critical section no entry falls: along a run with no exit and no reset the mask stays closed and no
input is an entry. -/
def Obligations.NoEntryInsideSection : Prop :=
  ∀ (ins : List Input) (s t : State), noReset ins → (∀ x ∈ ins, ∀ b, inputOp x ≠ some (.coreCsexit b)) →
    s.core.imask = true → runInputs ins s = .next t →
    t.core.imask = true ∧ ∀ x ∈ ins, inputOp x ≠ some .coreIrqentry

/-- `CS { ops }` and nested sections (R112, R213 (b), R214 (b), (c)). In the foreground, with the tokens the entries return,
the inner exit leaves the mask closed and the outer exit opens it. For `CONS` and for `HAND`, begun in any state in which
the agent runs, with the mask open or closed, a section ends with the mask as it was: with nothing inside it leaves the
whole core as it was and reports nothing, and whatever stands inside, a run that ends has the mask back. -/
def Obligations.NestedSectionsRestore : Prop :=
  (∀ s : State, s.core = { imask := false, inh := false, waiting := false } → s.params.irqLatencyZero = false →
    ∃ t₁ t₂ t₃ t₄, runInputs [line .cons .coreCsenter] s = .next t₁ ∧ t₁.results.cons = .doneToken 0 ∧
      runInputs [line .cons .coreCsenter] t₁ = .next t₂ ∧ t₂.results.cons = .doneToken 1 ∧
      runInputs [line .cons (.coreCsexit true)] t₂ = .next t₃ ∧ t₃.core.imask = true ∧ t₃.violations = [] ∧
      runInputs [line .cons (.coreCsexit false)] t₃ = .next t₄ ∧ t₄.core.imask = false ∧ t₄.violations = []) ∧
  ∀ (a : Agent) (s : State), a = .cons ∨ a = .hand → mayStep s a = true →
    (∃ t, runInputs (criticalSectionFrom a s []) s = .next t ∧ t.core = s.core ∧ t.violations = []) ∧
    ∀ (ops : List Input) (t : State), runInputs (criticalSectionFrom a s ops) s = .next t → t.core.imask = s.core.imask

/-! ### The whole machine -/

/-- Who writes what (R21, R24 to R27, R32 to R40, R44 to R48, R51 to R53): each element changes only under the operations
that its rule names, whatever the operation and the state. -/
def Obligations.OnlyNamedOperationsWrite : Prop :=
  ∀ (i : Instr) (s t : State), exec i s = .next t →
    (∀ q, memRead q t.toHardware ≠ memRead q s.toHardware → ∃ w, i = .icfWrite q w ∨ i = .icfTrywrite q w) ∧
    (∀ q, (t.toHardware.icf q).wptr ≠ (s.toHardware.icf q).wptr → ∃ w, i = .icfWrite q w ∨ i = .icfTrywrite q w) ∧
    (∀ q, (t.toHardware.icf q).rptr ≠ (s.toHardware.icf q).rptr → i = .icfRead q) ∧
    (∀ q, (t.toHardware.icf q).wq1 ≠ (s.toHardware.icf q).wq1 ∨ (t.toHardware.icf q).wq2 ≠ (s.toHardware.icf q).wq2 →
      isWriteEdge q i = true) ∧
    (∀ q, (t.toHardware.icf q).rq1 ≠ (s.toHardware.icf q).rq1 ∨ (t.toHardware.icf q).rq2 ≠ (s.toHardware.icf q).rq2 →
      isReadEdge q i = true) ∧
    (t.apwm.pstate ≠ s.apwm.pstate → (∃ d p, i = .pwmCfg d p) ∨ i = .pwmStart) ∧
    (t.apwm.top ≠ s.apwm.top ∨ t.apwm.div ≠ s.apwm.div → ∃ d p, i = .pwmCfg d p) ∧
    (t.apwm.cc ≠ s.apwm.cc → ∃ v, i = .pwmSetduty v) ∧
    (t.apwm.ccAct ≠ s.apwm.ccAct → i = .pwmStart ∨ (i = .pwmTick ∧ atWrap s.apwm = true)) ∧
    (t.apwm.ctr ≠ s.apwm.ctr ∨ t.apwm.pre ≠ s.apwm.pre → i = .pwmStart ∨ i = .pwmTick) ∧
    (t.apwm.wrapIf ≠ s.apwm.wrapIf → i = .pwmIrqclr ∨ (i = .pwmTick ∧ atWrap s.apwm = true)) ∧
    (t.apwm.wrapIe ≠ s.apwm.wrapIe → ∃ b, i = .pwmIrqen b) ∧
    (∀ j, (t.toHardware.btn j).s1 ≠ (s.toHardware.btn j).s1 ∨ (t.toHardware.btn j).s2 ≠ (s.toHardware.btn j).s2 ∨
        (t.toHardware.btn j).level ≠ (s.toHardware.btn j).level ∨
        (t.toHardware.btn j).wasDown ≠ (s.toHardware.btn j).wasDown →
      ∃ b, i = .btnSample j b) ∧
    (∀ j, (t.toHardware.btn j).pressed ≠ (s.toHardware.btn j).pressed →
      ((∃ b, i = .btnSample j b) ∧ edgeNow (s.toHardware.btn j) = true) ∨ i = .btnClear j) ∧
    (t.play ≠ s.play → (∃ b, i = .btn0Sample b) ∧ edgeNow s.btn0 = true) ∧
    (t.core.imask ≠ s.core.imask → i = .coreCsenter ∨ ∃ b, i = .coreCsexit b) ∧
    (t.core.inh ≠ s.core.inh → i = .coreIrqentry ∨ i = .coreIrqret) ∧
    (t.core.waiting ≠ s.core.waiting → i = .coreWfi ∨ i = .coreIrqret)

/-- R238 V7, V8, R240: a port cannot tell who drives it: where the model follows the hardware column, an operation leaves
the hardware in the same state whoever issues it. That this holds of a clock step presented by
software, which R245 says is not issued by software at all, and of an operation presented by a clock or by `irq`, is log 19
(DEDUCED). -/
def Obligations.PortsCannotTellIssuer : Prop :=
  ∀ (i : Instr) (s t : State) (a b : Agent), s.params.refusing = false → exec i { s with issuer := a } = .next t →
    ∃ u, exec i { s with issuer := b } = .next u ∧ u.toHardware = t.toHardware

/-- R238 V7, V8 under STRICT_CONTRACT: an operation whose issuer R245 does not permit is refused, and the refusal names the
violation of the issuer, or in its place the one that the operation raises itself (V2, V3, V4, V6, V9), which of the two
is log 8, the model's choice. The violation of the issuer is V8 on the requests of a queue, for `HAND` too (log 24, the
model's choice: R244 and R175 say V7), and V7 elsewhere. That a clock step presented by software, which R245 says is not
issued by software at all, or an operation presented by a clock or by `irq`, is refused as V7 or V8 is log 19 (DEDUCED). An entry that is not enabled is no step at all. -/
def Obligations.UnpermittedIssuerRefused : Prop :=
  ∀ (i : Instr) (s : State), permits s.issuer i = false → strictlyRefusing s.params = true →
    (∃ vs, exec i s = .refused (.contract vs) ∧
      (vs = [scopeViolation i] ∨ ∃ v, vs = [v] ∧
        ((v = .v2 ∧ ((∃ d p, i = .pwmCfg d p) ∨ i = .pwmStart ∨ (∃ d, i = .pwmSetduty d) ∨ ∃ b, i = .pwmIrqen b)) ∨
          (v = .v3 ∧ ∃ d p, i = .pwmCfg d p) ∨ (v = .v4 ∧ ∃ d, i = .pwmSetduty d) ∨ (v = .v6 ∧ i = .coreWfi) ∨
          (v = .v9 ∧ ∃ b, i = .coreCsexit b)))) ∨
    (i = .coreIrqentry ∧ entryEnabled s.toHardware = false ∧ exec i s = .refused (.noSuchStep s.issuer))

/-- R240: a refusing model has no state of its own: what it answers the model of the hardware column answers too, and
under STRICT_CONTRACT it answers only where nothing is reported. -/
def Obligations.RefusingOnlyRemovesRuns : Prop :=
  ∀ (i : Instr) (s t : State), exec i s = .next t →
    exec i { s with params := { s.params with refusing := false } } =
      .next { t with params := { t.params with refusing := false } } ∧
    (strictlyRefusing s.params = true → t.violations = [])

/-- Every step keeps the invariant of the hardware, from every state that has it, whatever the input: the memory's
canonical form, the pointer protocol of R31, the bounds of R171 (b), R50, and `PLAY` never `Idle` (R197). -/
def Obligations.StepKeepsInvariant : Prop :=
  ∀ s t : State, HwInv s.toHardware → step s = .next t → HwInv t.toHardware

/-- The state after reset has the invariant. -/
def Obligations.ResetHasInvariant : Prop := HwInv State.reset.toHardware
end

