-- ==== Sys2Proof/Laws/State.lean ====
section
/-! SUPPORT. The small lemmas of the state: what each update leaves of each field, so that no proof unfolds a record. -/

namespace Sys2Proof.Machine

@[simp] theorem setIcf_mem (h : Hardware) (i : IcfId) (f : Icf) : (h.setIcf i f).mem = h.mem := by cases i <;> rfl
@[simp] theorem setIcf_apwm (h : Hardware) (i : IcfId) (f : Icf) : (h.setIcf i f).apwm = h.apwm := by cases i <;> rfl
@[simp] theorem setIcf_btn0 (h : Hardware) (i : IcfId) (f : Icf) : (h.setIcf i f).btn0 = h.btn0 := by cases i <;> rfl
@[simp] theorem setIcf_btn1 (h : Hardware) (i : IcfId) (f : Icf) : (h.setIcf i f).btn1 = h.btn1 := by cases i <;> rfl
@[simp] theorem setIcf_play (h : Hardware) (i : IcfId) (f : Icf) : (h.setIcf i f).play = h.play := by cases i <;> rfl
@[simp] theorem setIcf_core (h : Hardware) (i : IcfId) (f : Icf) : (h.setIcf i f).core = h.core := by cases i <;> rfl
@[simp] theorem setIcf_icf_same (h : Hardware) (i : IcfId) (f : Icf) : (h.setIcf i f).icf i = f := by cases i <;> rfl
theorem setIcf_icf_other (h : Hardware) (i j : IcfId) (f : Icf) (ne : j ≠ i) : (h.setIcf i f).icf j = h.icf j := by
  cases i <;> cases j <;> first | rfl | exact absurd rfl ne
@[simp] theorem setIcf_setIcf (h : Hardware) (i : IcfId) (f g : Icf) : (h.setIcf i f).setIcf i g = h.setIcf i g := by
  cases i <;> rfl
@[simp] theorem setIcf_btn (h : Hardware) (i : IcfId) (f : Icf) (j : BtnId) : (h.setIcf i f).btn j = h.btn j := by
  cases i <;> cases j <;> rfl
@[simp] theorem icf_icf0 (h : Hardware) : h.icf .icf0 = h.icf0 := rfl
@[simp] theorem icf_icf1 (h : Hardware) : h.icf .icf1 = h.icf1 := rfl
@[simp] theorem setIcf_icf0_icf1 (h : Hardware) (f : Icf) : (h.setIcf .icf0 f).icf1 = h.icf1 := rfl
@[simp] theorem setIcf_icf1_icf0 (h : Hardware) (f : Icf) : (h.setIcf .icf1 f).icf0 = h.icf0 := rfl
@[simp] theorem setIcf_icf0_icf0 (h : Hardware) (f : Icf) : (h.setIcf .icf0 f).icf0 = f := rfl
@[simp] theorem setIcf_icf1_icf1 (h : Hardware) (f : Icf) : (h.setIcf .icf1 f).icf1 = f := rfl

@[simp] theorem setBtn_mem (h : Hardware) (j : BtnId) (b : Btn) : (h.setBtn j b).mem = h.mem := by cases j <;> rfl
@[simp] theorem setBtn_icf0 (h : Hardware) (j : BtnId) (b : Btn) : (h.setBtn j b).icf0 = h.icf0 := by cases j <;> rfl
@[simp] theorem setBtn_icf1 (h : Hardware) (j : BtnId) (b : Btn) : (h.setBtn j b).icf1 = h.icf1 := by cases j <;> rfl
@[simp] theorem setBtn_apwm (h : Hardware) (j : BtnId) (b : Btn) : (h.setBtn j b).apwm = h.apwm := by cases j <;> rfl
@[simp] theorem setBtn_play (h : Hardware) (j : BtnId) (b : Btn) : (h.setBtn j b).play = h.play := by cases j <;> rfl
@[simp] theorem setBtn_core (h : Hardware) (j : BtnId) (b : Btn) : (h.setBtn j b).core = h.core := by cases j <;> rfl
@[simp] theorem setBtn_btn_same (h : Hardware) (j : BtnId) (b : Btn) : (h.setBtn j b).btn j = b := by cases j <;> rfl
theorem setBtn_btn_other (h : Hardware) (i j : BtnId) (b : Btn) (ne : j ≠ i) : (h.setBtn i b).btn j = h.btn j := by
  cases i <;> cases j <;> first | rfl | exact absurd rfl ne
@[simp] theorem setBtn_icf (h : Hardware) (j : BtnId) (b : Btn) (i : IcfId) : (h.setBtn j b).icf i = h.icf i := by
  cases i <;> cases j <;> rfl
@[simp] theorem btn_btn0 (h : Hardware) : h.btn .btn0 = h.btn0 := rfl
@[simp] theorem btn_btn1 (h : Hardware) : h.btn .btn1 = h.btn1 := rfl
@[simp] theorem setBtn_btn0_btn1 (h : Hardware) (b : Btn) : (h.setBtn .btn0 b).btn1 = h.btn1 := rfl
@[simp] theorem setBtn_btn1_btn0 (h : Hardware) (b : Btn) : (h.setBtn .btn1 b).btn0 = h.btn0 := rfl
@[simp] theorem setBtn_btn0_btn0 (h : Hardware) (b : Btn) : (h.setBtn .btn0 b).btn0 = b := rfl
@[simp] theorem setBtn_btn1_btn1 (h : Hardware) (b : Btn) : (h.setBtn .btn1 b).btn1 = b := rfl

@[simp] theorem memWrite_icf0 (i : IcfId) (w : Word) (h : Hardware) : (memWrite i w h).icf0 = h.icf0 := rfl
@[simp] theorem memWrite_icf1 (i : IcfId) (w : Word) (h : Hardware) : (memWrite i w h).icf1 = h.icf1 := rfl
@[simp] theorem memWrite_apwm (i : IcfId) (w : Word) (h : Hardware) : (memWrite i w h).apwm = h.apwm := rfl
@[simp] theorem memWrite_btn0 (i : IcfId) (w : Word) (h : Hardware) : (memWrite i w h).btn0 = h.btn0 := rfl
@[simp] theorem memWrite_btn1 (i : IcfId) (w : Word) (h : Hardware) : (memWrite i w h).btn1 = h.btn1 := rfl
@[simp] theorem memWrite_play (i : IcfId) (w : Word) (h : Hardware) : (memWrite i w h).play = h.play := rfl
@[simp] theorem memWrite_core (i : IcfId) (w : Word) (h : Hardware) : (memWrite i w h).core = h.core := rfl
@[simp] theorem memWrite_icf (i : IcfId) (w : Word) (h : Hardware) (j : IcfId) : (memWrite i w h).icf j = h.icf j := by cases j <;> rfl

@[simp] theorem takeInterrupt_mem (h : Hardware) : (takeInterrupt h).mem = h.mem := rfl
@[simp] theorem takeInterrupt_icf0 (h : Hardware) : (takeInterrupt h).icf0 = h.icf0 := rfl
@[simp] theorem takeInterrupt_icf1 (h : Hardware) : (takeInterrupt h).icf1 = h.icf1 := rfl
@[simp] theorem takeInterrupt_apwm (h : Hardware) : (takeInterrupt h).apwm = h.apwm := rfl
@[simp] theorem takeInterrupt_btn0 (h : Hardware) : (takeInterrupt h).btn0 = h.btn0 := rfl
@[simp] theorem takeInterrupt_btn1 (h : Hardware) : (takeInterrupt h).btn1 = h.btn1 := rfl
@[simp] theorem takeInterrupt_play (h : Hardware) : (takeInterrupt h).play = h.play := rfl
@[simp] theorem returnFromInterrupt_mem (h : Hardware) : (returnFromInterrupt h).mem = h.mem := rfl
@[simp] theorem returnFromInterrupt_icf0 (h : Hardware) : (returnFromInterrupt h).icf0 = h.icf0 := rfl
@[simp] theorem returnFromInterrupt_icf1 (h : Hardware) : (returnFromInterrupt h).icf1 = h.icf1 := rfl
@[simp] theorem returnFromInterrupt_apwm (h : Hardware) : (returnFromInterrupt h).apwm = h.apwm := rfl
@[simp] theorem returnFromInterrupt_btn0 (h : Hardware) : (returnFromInterrupt h).btn0 = h.btn0 := rfl
@[simp] theorem returnFromInterrupt_btn1 (h : Hardware) : (returnFromInterrupt h).btn1 = h.btn1 := rfl
@[simp] theorem returnFromInterrupt_play (h : Hardware) : (returnFromInterrupt h).play = h.play := rfl
@[simp] theorem takeInterrupt_inh (h : Hardware) : (takeInterrupt h).core.inh = true := rfl
@[simp] theorem takeInterrupt_imask (h : Hardware) : (takeInterrupt h).core.imask = h.core.imask := rfl
@[simp] theorem takeInterrupt_waiting (h : Hardware) : (takeInterrupt h).core.waiting = h.core.waiting := rfl
@[simp] theorem returnFromInterrupt_inh (h : Hardware) : (returnFromInterrupt h).core.inh = false := rfl
@[simp] theorem returnFromInterrupt_imask (h : Hardware) : (returnFromInterrupt h).core.imask = h.core.imask := rfl
@[simp] theorem returnFromInterrupt_waiting (h : Hardware) : (returnFromInterrupt h).core.waiting = false := rfl

@[simp] theorem shiftWriteSync_wptr (f : Icf) : (shiftWriteSync f).wptr = f.wptr := rfl
@[simp] theorem shiftWriteSync_rptr (f : Icf) : (shiftWriteSync f).rptr = f.rptr := rfl
@[simp] theorem shiftWriteSync_wq1 (f : Icf) : (shiftWriteSync f).wq1 = f.rptr := rfl
@[simp] theorem shiftWriteSync_wq2 (f : Icf) : (shiftWriteSync f).wq2 = f.wq1 := rfl
@[simp] theorem shiftWriteSync_rq1 (f : Icf) : (shiftWriteSync f).rq1 = f.rq1 := rfl
@[simp] theorem shiftWriteSync_rq2 (f : Icf) : (shiftWriteSync f).rq2 = f.rq2 := rfl
@[simp] theorem shiftReadSync_wptr (f : Icf) : (shiftReadSync f).wptr = f.wptr := rfl
@[simp] theorem shiftReadSync_rptr (f : Icf) : (shiftReadSync f).rptr = f.rptr := rfl
@[simp] theorem shiftReadSync_wq1 (f : Icf) : (shiftReadSync f).wq1 = f.wq1 := rfl
@[simp] theorem shiftReadSync_wq2 (f : Icf) : (shiftReadSync f).wq2 = f.wq2 := rfl
@[simp] theorem shiftReadSync_rq1 (f : Icf) : (shiftReadSync f).rq1 = f.wptr := rfl
@[simp] theorem shiftReadSync_rq2 (f : Icf) : (shiftReadSync f).rq2 = f.rq1 := rfl

@[simp] theorem resetStep_params (s : State) : (resetStep s).params = s.params := rfl
@[simp] theorem resetStep_inputs (s : State) : (resetStep s).inputs = s.inputs := rfl
@[simp] theorem resetStep_envIndex (s : State) : (resetStep s).envIndex = s.envIndex := rfl
@[simp] theorem resetStep_hardware (s : State) : (resetStep s).toHardware = Hardware.reset := rfl

@[simp] theorem give_prod (r : Results) (v : Result) : r.give .prod v = { r with prod := v } := rfl
@[simp] theorem give_cons (r : Results) (v : Result) : r.give .cons v = { r with cons := v } := rfl
@[simp] theorem give_hand (r : Results) (v : Result) : r.give .hand v = { r with hand := v } := rfl

/-- A queue pointer is 0 or 1. -/
theorem ptr_cases (p : Ptr) : p = 0 ∨ p = 1 := by revert p; decide

/-- Toggling a pointer changes it. -/
theorem ptr_toggle_ne (p : Ptr) : p ^^^ 1 ≠ p := by revert p; decide

/-- A pointer that is not `q` is the toggled `q`. -/
theorem ptr_eq_toggle {p q : Ptr} (h : p ≠ q) : p = q ^^^ 1 := by revert p q; decide

end Sys2Proof.Machine
end

