-- ==== Sys2Proof/Laws/Memory.lean ====
section
/-! SUPPORT. The laws of the memory: read after write, and the canonical form, which every memory operation keeps. -/

namespace Sys2Proof.Machine

theorem memLookup_memStore_same (m : Memory) (k : Nat) (v : Word) : memLookup (memStore m k v) k = some v := by
  induction m with
  | nil => simp [memStore, memLookup]
  | cons c rest ih =>
    obtain ⟨a, w⟩ := c
    unfold memStore
    split
    · simp [memLookup]
    · split
      · simp [memLookup]
      · simp [memLookup, *]

theorem memLookup_memStore_other (m : Memory) (k j : Nat) (v : Word) (ne : j ≠ k) :
    memLookup (memStore m k v) j = memLookup m j := by
  induction m with
  | nil => simp [memStore, memLookup, ne.symm]
  | cons c rest ih =>
    obtain ⟨a, w⟩ := c
    unfold memStore
    split
    · simp [memLookup, ne.symm]
    · split
      · next h => subst h; simp [memLookup, ne.symm]
      · simp [memLookup, ih]

@[simp] theorem slotIndex_lt (i : IcfId) : slotIndex i < Config.nIcf := by cases i <;> decide

theorem slotIndex_inj {i j : IcfId} (h : slotIndex i = slotIndex j) : i = j := by
  cases i <;> cases j <;> first | rfl | exact absurd h (by decide)

@[simp] theorem memRead_memWrite_same (i : IcfId) (w : Word) (h : Hardware) : memRead i (memWrite i w h) = some w :=
  memLookup_memStore_same _ _ _

theorem memRead_memWrite_other (i j : IcfId) (w : Word) (h : Hardware) (ne : j ≠ i) :
    memRead j (memWrite i w h) = memRead j h :=
  memLookup_memStore_other _ _ _ _ (fun e => ne (slotIndex_inj e))

@[simp] theorem memRead_setIcf (i j : IcfId) (f : Icf) (h : Hardware) : memRead j (h.setIcf i f) = memRead j h := by
  simp [memRead]

@[simp] theorem memRead_setBtn (i : IcfId) (j : BtnId) (b : Btn) (h : Hardware) : memRead i (h.setBtn j b) = memRead i h := by
  simp [memRead]

theorem memSorted_mono {lo lo' : Nat} {m : Memory} (le : lo' ≤ lo) (h : memSorted lo m = true) : memSorted lo' m = true := by
  cases m with
  | nil => rfl
  | cons c rest =>
    obtain ⟨a, w⟩ := c
    simp only [memSorted, Bool.and_eq_true, decide_eq_true_eq] at h ⊢
    exact ⟨⟨by omega, h.1.2⟩, h.2⟩

/-- A store keeps the canonical form above any bound that its key meets. -/
theorem memSorted_memStore {lo k : Nat} (m : Memory) (v : Word) (lok : lo ≤ k) (lt : k < Config.nIcf)
    (h : memSorted lo m = true) : memSorted lo (memStore m k v) = true := by
  induction m generalizing lo with
  | nil => simp [memStore, memSorted, lok, lt]
  | cons c rest ih =>
    obtain ⟨a, w⟩ := c
    simp only [memSorted, Bool.and_eq_true, decide_eq_true_eq] at h
    unfold memStore
    split
    · next hka =>
      simp only [memSorted, Bool.and_eq_true, decide_eq_true_eq]
      exact ⟨⟨lok, lt⟩, ⟨by omega, h.1.2⟩, h.2⟩
    · split
      · next _ hak =>
        subst hak
        simp only [memSorted, Bool.and_eq_true, decide_eq_true_eq]
        exact ⟨⟨lok, lt⟩, h.2⟩
      · simp only [memSorted, Bool.and_eq_true, decide_eq_true_eq]
        exact ⟨h.1, ih (by omega) h.2⟩

/-- `MemWrite` keeps the canonical form. -/
theorem memWrite_wf (i : IcfId) (w : Word) (h : Hardware) (ok : Memory.wf h.mem = true) :
    Memory.wf (memWrite i w h).mem = true :=
  memSorted_memStore _ _ (Nat.zero_le _) (slotIndex_lt i) ok

/-- The memory after reset has the canonical form. -/
theorem reset_mem_wf : Memory.wf State.reset.mem = true := by decide

end Sys2Proof.Machine
end

