-- ==== Sys2Proof/Laws/Ops.lean ====
section
/-! SUPPORT. One lemma for each shared operation that says once all it can do. -/

namespace Sys2Proof.Machine

/-- An operation that answers a next state leaves the hardware it was given, gives its result, and reports what it was
given; nothing else of the state changes. -/
theorem conclude_next {s : State} {h : Hardware} {rs : List Report} {v : Result} {t : State}
    (e : conclude s h rs v = .next t) :
    t = { s with toHardware := h, results := s.results.give s.issuer v, violations := rs.map (·.violation) } := by
  unfold conclude at e
  split at e
  · cases e
  · exact (Host.Outcome.next.inj e).symm

/-- With no report an operation always answers a next state. -/
@[simp] theorem conclude_nil (s : State) (h : Hardware) (v : Result) :
    conclude s h [] v = .next { s with toHardware := h, results := s.results.give s.issuer v, violations := [] } := rfl

/-- A model that does not refuse answers a next state whatever is reported (R240). -/
theorem conclude_notRefusing (s : State) (h : Hardware) (rs : List Report) (v : Result) (p : s.params.refusing = false) :
    conclude s h rs v =
      .next { s with toHardware := h, results := s.results.give s.issuer v, violations := rs.map (·.violation) } := by
  unfold conclude
  have : (rs.any (refuses s.params)) = false := by simp [refuses, p]
  rw [this]; rfl

/-- A report that the parameters refuse ends the operation in a refusal that names every report. -/
theorem conclude_refused (s : State) (h : Hardware) (rs : List Report) (v : Result)
    (r : rs.any (refuses s.params) = true) : conclude s h rs v = .refused (.contract (rs.map (·.violation))) := by
  unfold conclude; rw [r]; rfl

/-- An ignored operation changes nothing of the hardware. -/
theorem ignore_next {s : State} {v : Violation} {t : State} (e : ignore s v = .next t) :
    t = { s with results := s.results.give s.issuer (.ignored v), violations := [v] } :=
  conclude_next e

/-- A permitted issuer is not reported. -/
@[simp] theorem scopeReports_permitted {a : Agent} {i : Instr} (p : permits a i = true) : scopeReports a i = [] := by
  simp [scopeReports, p]

/-- An issuer that is not permitted is reported, V8 on the requests of a queue and V7 elsewhere. -/
theorem scopeReports_unpermitted {a : Agent} {i : Instr} (p : permits a i = false) :
    scopeReports a i = [⟨scopeViolation i, false⟩] := by
  simp [scopeReports, p]

/-- An ignored operation answers a next state where the model does not refuse, and names its violation where it does. -/
theorem ignore_eq (s : State) (v : Violation) :
    ignore s v =
      if s.params.refusing = true then .refused (.contract [v])
      else .next { s with results := s.results.give s.issuer (.ignored v), violations := [v] } := by
  cases h : s.params.refusing <;> simp [ignore, conclude, refuses, h]

/-- An operation that raises nothing reports its issuer alone. -/
@[simp] theorem operationReports_nil (a : Agent) (i : Instr) : operationReports a i [] = scopeReports a i := rfl

/-- An operation that raises a violation reports what it raises and not its issuer. -/
theorem operationReports_own {a : Agent} {i : Instr} {own : List Report} (h : own ≠ []) : operationReports a i own = own := by
  cases own
  · exact absurd rfl h
  · rfl

/-- The report on the issuer names the violation `issuerViolations` names. -/
theorem scopeReports_violations (s : State) (i : Instr) :
    (scopeReports s.issuer i).map (·.violation) = issuerViolations s i := by
  unfold scopeReports issuerViolations; split <;> rfl

/-- What an operation reports, as violations. -/
theorem operationReports_violations (s : State) (i : Instr) (own : List Report) :
    (operationReports s.issuer i own).map (·.violation) = reportedViolations s i (own.map (·.violation)) := by
  cases own
  · exact scopeReports_violations s i
  · rfl

/-- An operation that reports no more than a tolerated issuer answers a next state. -/
theorem conclude_tolerated (s : State) (h : Hardware) (i : Instr) (v : Result) (ok : issuerTolerated s i) :
    conclude s h (scopeReports s.issuer i) v =
      .next { s with toHardware := h, results := s.results.give s.issuer v, violations := issuerViolations s i } := by
  have quiet : (scopeReports s.issuer i).any (refuses s.params) = false := by
    unfold scopeReports
    split
    · rfl
    · next p =>
      rcases ok with h | h
      · exact absurd h p
      · simpa [refuses, strictlyRefusing] using h
  unfold conclude
  rw [quiet, scopeReports_violations]
  rfl

/-- A write-side edge: the synchroniser shifts, and a request at a ready side is stored and toggles the pointer. -/
theorem writeEdge_cases (i : IcfId) (req : Option Word) (h : Hardware) :
    (∃ w, req = some w ∧ wrReady (h.icf i) = true ∧
      writeEdge i req h =
        (memWrite i w (h.setIcf i { shiftWriteSync (h.icf i) with wptr := (h.icf i).wptr ^^^ 1 }), true)) ∨
    ((req = none ∨ wrReady (h.icf i) = false) ∧
      writeEdge i req h = (h.setIcf i (shiftWriteSync (h.icf i)), false)) := by
  cases req with
  | none => exact .inr ⟨.inl rfl, rfl⟩
  | some w =>
    cases e : wrReady (h.icf i) with
    | true => exact .inl ⟨w, rfl, rfl, by simp [writeEdge, e]⟩
    | false => exact .inr ⟨.inr rfl, by simp [writeEdge, e]⟩

/-- A read-side edge: the synchroniser shifts, and a read at a valid side is delivered and toggles the pointer. -/
theorem readEdge_cases (i : IcfId) (en : Bool) (h : Hardware) :
    (en = true ∧ rdValid (h.icf i) = true ∧
      readEdge i en h =
        (h.setIcf i { shiftReadSync (h.icf i) with rptr := (h.icf i).rptr ^^^ 1 }, some (slotWord i h))) ∨
    ((en = false ∨ rdValid (h.icf i) = false) ∧
      readEdge i en h = (h.setIcf i (shiftReadSync (h.icf i)), none)) := by
  cases en with
  | false => exact .inr ⟨.inl rfl, by simp [readEdge]⟩
  | true =>
    cases e : rdValid (h.icf i) with
    | true => exact .inl ⟨rfl, rfl, by simp [readEdge, e]⟩
    | false => exact .inr ⟨.inr rfl, by simp [readEdge, e]⟩

/-- A tick outside `RUNNING` changes nothing; in `RUNNING` it wraps, counts, or counts the divider (R171). -/
theorem tick_cases (a : Apwm) :
    (a.pstate ≠ .running ∧ tick a = a) ∨
    (a.pstate = .running ∧ a.pre = a.div - 1 ∧ a.ctr = a.top - 1 ∧
      tick a = { a with pre := 0, ctr := 0, ccAct := a.cc, wrapIf := true }) ∨
    (a.pstate = .running ∧ a.pre = a.div - 1 ∧ a.ctr ≠ a.top - 1 ∧ tick a = { a with pre := 0, ctr := a.ctr + 1 }) ∨
    (a.pstate = .running ∧ a.pre ≠ a.div - 1 ∧ tick a = { a with pre := a.pre + 1 }) := by
  by_cases r : a.pstate = .running
  · by_cases p : a.pre = a.div - 1
    · by_cases c : a.ctr = a.top - 1
      · exact .inr (.inl ⟨r, p, c, by unfold tick; rw [if_pos r, if_pos p, if_pos c]⟩)
      · exact .inr (.inr (.inl ⟨r, p, c, by unfold tick; rw [if_pos r, if_pos p, if_neg c]⟩))
    · exact .inr (.inr (.inr ⟨r, p, by unfold tick; rw [if_pos r, if_neg p]⟩))
  · exact .inl ⟨r, by unfold tick; rw [if_neg r]⟩

/-- An input that answers a next state is the reset, or an operation whose step exists. -/
theorem applyInput_next {x : Input} {s t : State} (e : applyInput x s = .next t) :
    (x = .reset ∧ t = resetStep s) ∨
    ∃ a cw i, x = .present a cw ∧ decode cw = .ok i ∧ mayPresent s a i = true ∧ exec i { s with issuer := a } = .next t := by
  cases x with
  | reset => exact .inl ⟨rfl, (Host.Outcome.next.inj e).symm⟩
  | present a cw =>
    simp only [applyInput] at e
    split at e
    · next i d =>
      unfold present at e
      split at e
      · next m => exact .inr ⟨a, cw, i, rfl, d, m, e⟩
      · cases e
    · cases e

/-- A run that answers a next state either is empty or takes its first input to a state from which the rest runs. -/
theorem runInputs_cons_next {x : Input} {rest : List Input} {s t : State} (e : runInputs (x :: rest) s = .next t) :
    ∃ u, applyInput x s = .next u ∧ runInputs rest u = .next t := by
  simp only [runInputs] at e
  split at e
  · next u h => exact ⟨u, h, e⟩
  · cases e
  · cases e

/-- A run over a joined list is a run over its parts. -/
theorem runInputs_append (xs ys : List Input) {s u : State} (e : runInputs xs s = .next u) :
    runInputs (xs ++ ys) s = runInputs ys u := by
  induction xs generalizing s with
  | nil => cases e; rfl
  | cons x rest ih =>
    obtain ⟨v, h, h'⟩ := runInputs_cons_next e
    simp only [List.cons_append, runInputs, h]
    exact ih h'

/-- On one bit, the width of the queue pointers, the Gray code is the identity (R14, R24, R145). -/
theorem gray_pointer : ∀ p : Ptr, gray p = p := by decide

/-- A step with an input listed applies it. -/
theorem step_listed {s : State} {x : Input} {rest : List Input} (h : s.inputs = x :: rest) :
    step s = applyInput x { s with inputs := rest } := by
  simp [step, stepOnce, takeInput, h]

end Sys2Proof.Machine
end

