-- ==== Sys2Proof/Laws/Exec.lean ====
section
/-! SUPPORT. What an operation can do, once for all operations: the hardware it leaves is a function of the hardware it
finds and of nothing else (R12), and of the model's own fields only the results and the reports change. -/

namespace Sys2Proof.Machine

/-- The hardware an operation leaves. -/
def effect (i : Instr) (h : Hardware) : Hardware :=
  match i with
  | .icf0Write w => (writeEdge .icf0 (some w) h).1
  | .icf0Trywrite w => (writeEdge .icf0 (some w) h).1
  | .icf0Read => (readEdge .icf0 true h).1
  | .icf0Wtick => (writeEdge .icf0 none h).1
  | .icf0Rtick => (readEdge .icf0 false h).1
  | .icf1Write w => (writeEdge .icf1 (some w) h).1
  | .icf1Trywrite w => (writeEdge .icf1 (some w) h).1
  | .icf1Read => (readEdge .icf1 true h).1
  | .icf1Wtick => (writeEdge .icf1 none h).1
  | .icf1Rtick => (readEdge .icf1 false h).1
  | .pwmCfg div top =>
    if h.apwm.pstate = .uninit ∧ top ≠ 0 ∧ div ≠ 0 then
      { h with apwm := { h.apwm with top := top, div := div, pstate := .configured } }
    else h
  | .pwmStart =>
    if h.apwm.pstate = .configured then
      { h with apwm := { h.apwm with pstate := .running, ctr := 0, pre := 0, ccAct := h.apwm.cc } }
    else h
  | .pwmSetduty val => if h.apwm.pstate = .uninit then h else { h with apwm := { h.apwm with cc := val } }
  | .pwmIrqen bit => if h.apwm.pstate = .uninit then h else { h with apwm := { h.apwm with wrapIe := bit } }
  | .pwmIrqclr => { h with apwm := { h.apwm with wrapIf := false } }
  | .pwmTick => { h with apwm := tick h.apwm }
  | .btn0Sample bit => sampleStep .btn0 bit h
  | .btn0Read => h
  | .btn0Clear => h.setBtn .btn0 { h.btn .btn0 with pressed := false }
  | .btn1Sample bit => sampleStep .btn1 bit h
  | .btn1Read => h
  | .btn1Clear => h.setBtn .btn1 { h.btn .btn1 with pressed := false }
  | .coreWfi => { h with core := { h.core with waiting := true } }
  | .coreCsenter => { h with core := { h.core with imask := true } }
  | .coreCsexit bit => { h with core := { h.core with imask := bit } }
  | .coreIrqentry => takeInterrupt h
  | .coreIrqret => if h.core.inh then returnFromInterrupt h else h

/-- An operation that answers a next state leaves the hardware `effect` says, and changes no field of the model but the
results and the reports; an entry was enabled. -/
theorem exec_next {i : Instr} {s t : State} (e : exec i s = .next t) :
    (∃ r vs, t = { s with toHardware := effect i s.toHardware, results := r, violations := vs }) ∧
      (i = .coreIrqentry → entryEnabled s.toHardware = true) := by
  cases i
  case coreIrqentry =>
    simp only [exec, execCoreIrqentry] at e
    split at e
    · next en => exact ⟨⟨_, _, conclude_next e⟩, fun _ => en⟩
    · cases e
  case coreIrqret =>
    refine ⟨?_, fun h => by cases h⟩
    simp only [exec, execCoreIrqret] at e
    split at e
    · next en =>
      refine ⟨(completeWait s).give s.issuer .done, (scopeReports s.issuer .coreIrqret).map (·.violation), ?_⟩
      simp only [effect, if_pos en]
      exact conclude_next e
    · next en => exact ⟨_, _, by simp only [effect, if_neg en]; exact ignore_next e⟩
  case pwmCfg div top =>
    refine ⟨?_, fun h => by cases h⟩
    simp only [exec, execPwmCfg] at e
    split at e
    · next p => exact ⟨_, _, by simp only [effect]; rw [if_neg (fun c => p c.1)]; exact ignore_next e⟩
    · next p =>
      split at e
      · next z =>
        exact ⟨_, _, by simp only [effect]; rw [if_neg (fun c => z.elim c.2.1 c.2.2)]; exact ignore_next e⟩
      · next z =>
        rw [not_or] at z
        exact ⟨_, _, by simp only [effect]; rw [if_pos ⟨not_not.mp p, z.1, z.2⟩]; exact conclude_next e⟩
  case pwmStart =>
    refine ⟨?_, fun h => by cases h⟩
    simp only [exec, execPwmStart] at e
    split at e
    · next p => exact ⟨_, _, by simp only [effect]; rw [if_neg p]; exact ignore_next e⟩
    · next p => exact ⟨_, _, by simp only [effect]; rw [if_pos (not_not.mp p)]; exact conclude_next e⟩
  case pwmSetduty val =>
    refine ⟨?_, fun h => by cases h⟩
    simp only [exec, execPwmSetduty] at e
    split at e
    · next p => exact ⟨_, _, by simp only [effect]; rw [if_pos p]; exact ignore_next e⟩
    · next p => exact ⟨_, _, by simp only [effect]; rw [if_neg p]; exact conclude_next e⟩
  case pwmIrqen bit =>
    refine ⟨?_, fun h => by cases h⟩
    simp only [exec, execPwmIrqen] at e
    split at e
    · next p => exact ⟨_, _, by simp only [effect]; rw [if_pos p]; exact ignore_next e⟩
    · next p => exact ⟨_, _, by simp only [effect]; rw [if_neg p]; exact conclude_next e⟩
  all_goals exact ⟨⟨_, _, conclude_next e⟩, fun h => by cases h⟩

/-- The hardware after an operation. -/
theorem exec_hardware {i : Instr} {s t : State} (e : exec i s = .next t) : t.toHardware = effect i s.toHardware := by
  obtain ⟨⟨r, vs, rfl⟩, _⟩ := exec_next e; rfl

/-- An operation keeps the parameters. -/
theorem exec_params {i : Instr} {s t : State} (e : exec i s = .next t) : t.params = s.params := by
  obtain ⟨⟨r, vs, rfl⟩, _⟩ := exec_next e; rfl

/-- An operation keeps the issuer. -/
theorem exec_issuer {i : Instr} {s t : State} (e : exec i s = .next t) : t.issuer = s.issuer := by
  obtain ⟨⟨r, vs, rfl⟩, _⟩ := exec_next e; rfl

/-- An operation keeps the inputs that are listed. -/
theorem exec_inputs {i : Instr} {s t : State} (e : exec i s = .next t) : t.inputs = s.inputs := by
  obtain ⟨⟨r, vs, rfl⟩, _⟩ := exec_next e; rfl

end Sys2Proof.Machine
end

