-- ==== Sys2Proof/Tests/Slice0.lean ====
section
/-! SUPPORT. Tests: words written out from spec/30_encoding.md, one-step examples from spec/95_test_vectors.md and the
worked examples of the operation rules, and for every statement with hypotheses a state and operands that meet them. -/

open Sys2Proof Sys2Proof.Machine

namespace Sys2Proof.Tests

/-! ### Helpers -/

/-- A 40-bit value from its ten digits' fields: block, function, upper and lower half of `ARG` (R100, R101). -/
def cw (blk fn : BitVec 4) (hi lo : BitVec 16) : Cw := (blk ++ fn) ++ (hi ++ lo)

/-- The state after reset, with agent `a` as the issuer. -/
def issuedBy (a : Agent) : State := { State.reset with issuer := a }

/-- The state after reset with APWM at `x`. -/
def withApwm (x : Apwm) (a : Agent) : State := { issuedBy a with apwm := x }

/-- The state after reset with CORE at `(IMASK, INH, WAITING)`. -/
def withCore (imask inh waiting : Bool) (a : Agent) : State := { issuedBy a with core := ⟨imask, inh, waiting⟩ }

/-- The state after reset with queue 0 at `f`, its slot holding 0x80. -/
def withIcf0 (f : Icf) (a : Agent) : State := { issuedBy a with icf0 := f, mem := [(0, 0x80)] }

/-- `s` where violations refuse. -/
def refusing (s : State) : State := { s with params := ⟨true, false, true⟩ }

/-- A running carrier with `TOP = 4`, `DIV = 1`, `CC = 3`, `CC_ACT = 2`, unmasked. -/
def carrier (ctr : Reg) (wrapIf : Bool) : Apwm := ⟨.running, 4, 1, 3, 2, ctr, 0, wrapIf, true⟩

/-- One reading of the state an operation leaves; none where it leaves none. -/
def after {α : Type} (i : Instr) (s : State) (f : State → α) : Option α :=
  match exec i s with
  | .next t => some (f t)
  | .fault _ => none
  | .refused _ => none

/-- One reading of the state a run leaves. -/
def ran {α : Type} (ins : List Input) (s : State) (f : State → α) : Option α :=
  match runInputs ins s with
  | .next t => some (f t)
  | .fault _ => none
  | .refused _ => none

/-- What an operation refused with. -/
def refusal (i : Instr) (s : State) : Option Refusal :=
  match exec i s with
  | .next _ => none
  | .fault _ => none
  | .refused r => some r

/-! ### Decoding: one word for each operation, its fields written out from R101, R102 and R104 -/

theorem test_decode_icf0_write : decode (cw 0x1 0x0 0x0000 0x0080) = .ok (.icf0Write 0x80) := by decide
theorem test_decode_icf0_trywrite : decode (cw 0x1 0x1 0xDEAD 0xBEEF) = .ok (.icf0Trywrite 0xDEADBEEF) := by decide
theorem test_decode_icf0_read : decode (cw 0x1 0x2 0 0) = .ok .icf0Read := by decide
theorem test_decode_icf0_wtick : decode (cw 0x1 0xE 0 0) = .ok .icf0Wtick := by decide
theorem test_decode_icf0_rtick : decode (cw 0x1 0xF 0 0) = .ok .icf0Rtick := by decide
theorem test_decode_icf1_write : decode (cw 0x2 0x0 0xFFFF 0xFFFF) = .ok (.icf1Write 0xFFFFFFFF) := by decide
theorem test_decode_icf1_trywrite : decode (cw 0x2 0x1 0 0) = .ok (.icf1Trywrite 0) := by decide
theorem test_decode_icf1_read : decode (cw 0x2 0x2 0 0) = .ok .icf1Read := by decide
theorem test_decode_icf1_wtick : decode (cw 0x2 0xE 0 0) = .ok .icf1Wtick := by decide
theorem test_decode_icf1_rtick : decode (cw 0x2 0xF 0 0) = .ok .icf1Rtick := by decide
theorem test_decode_pwm_cfg : decode (cw 0x3 0x0 0x0001 0x1000) = .ok (.pwmCfg 1 4096) := by decide
theorem test_decode_pwm_start : decode (cw 0x3 0x1 0 0) = .ok .pwmStart := by decide
theorem test_decode_pwm_setduty : decode (cw 0x3 0x2 0 0x07F8) = .ok (.pwmSetduty 2040) := by decide
theorem test_decode_pwm_irqen : decode (cw 0x3 0x3 0 1) = .ok (.pwmIrqen true) := by decide
theorem test_decode_pwm_irqclr : decode (cw 0x3 0x4 0 0) = .ok .pwmIrqclr := by decide
theorem test_decode_pwm_tick : decode (cw 0x3 0xF 0 0) = .ok .pwmTick := by decide
theorem test_decode_btn0_sample : decode (cw 0x4 0x0 0 0) = .ok (.btn0Sample false) := by decide
theorem test_decode_btn0_read : decode (cw 0x4 0x1 0 0) = .ok .btn0Read := by decide
theorem test_decode_btn0_clear : decode (cw 0x4 0x2 0 0) = .ok .btn0Clear := by decide
theorem test_decode_btn1_sample : decode (cw 0x5 0x0 0 1) = .ok (.btn1Sample true) := by decide
theorem test_decode_btn1_read : decode (cw 0x5 0x1 0 0) = .ok .btn1Read := by decide
theorem test_decode_btn1_clear : decode (cw 0x5 0x2 0 0) = .ok .btn1Clear := by decide
theorem test_decode_core_wfi : decode (cw 0x6 0x0 0 0) = .ok .coreWfi := by decide
theorem test_decode_core_csenter : decode (cw 0x6 0x1 0 0) = .ok .coreCsenter := by decide
theorem test_decode_core_csexit : decode (cw 0x6 0x2 0 1) = .ok (.coreCsexit true) := by decide
theorem test_decode_core_irqentry : decode (cw 0x6 0x3 0 0) = .ok .coreIrqentry := by decide
theorem test_decode_core_irqret : decode (cw 0x6 0x4 0 0) = .ok .coreIrqret := by decide

/-- The whole value of one word, digit by digit (R100). -/
theorem test_cw_digits : cw 0x3 0x0 0x0001 0x1000 = 0x3000011000#40 ∧ encode (.pwmCfg 1 4096) = 0x3000011000#40 := by
  decide

/-- Each illegal block (R101). -/
theorem test_decode_illegal_blocks :
    ∀ b ∈ [0x0, 0x7, 0x8, 0x9, 0xA, 0xB, 0xC, 0xD, 0xE, 0xF],
      decode (cw (BitVec.ofNat 4 b) 0 0 0) = .error .illegalBlock := by decide

/-- The functions next to the defined ones (95_test_vectors.md 2.0). -/
theorem test_decode_illegal_functions :
    ∀ p ∈ [(0x1, 0x3), (0x2, 0xD), (0x3, 0x5), (0x3, 0xE), (0x4, 0x3), (0x5, 0x3), (0x6, 0x5)],
      decode (cw (BitVec.ofNat 4 p.1) (BitVec.ofNat 4 p.2) 0 0) = .error .illegalFunction := by decide

/-- A 1 in a field marked zero, one word for each of the formats Z, H and B (R102). -/
theorem test_decode_zero_fields :
    decode 0x1200000001#40 = .error .nonZeroField ∧ decode 0x3F00000001#40 = .error .nonZeroField ∧
    decode 0x3200010000#40 = .error .nonZeroField ∧ decode 0x3300000002#40 = .error .nonZeroField ∧
    decode 0x4000000003#40 = .error .nonZeroField := by decide

/-- The host's numbering: one word of 40 bits. -/
theorem test_table_word :
    decodeTableWord 40 0x3000011000 = some (.pwmCfg 1 4096) ∧ decodeTableWord 40 0x7000000000 = none := by decide

/-! ### Well-formedness refuses -/

theorem test_wellFormed_refuses_block : wellFormedWord 0x7000000000#40 = false := by decide
theorem test_wellFormed_refuses_function : wellFormedWord 0x3500000000#40 = false := by decide
theorem test_wellFormed_refuses_format_z : wellFormedWord 0x1200000001#40 = false := by decide
theorem test_wellFormed_refuses_format_h : wellFormedWord 0x3200010000#40 = false := by decide
theorem test_wellFormed_refuses_format_b : wellFormedWord 0x3300000002#40 = false := by decide
theorem test_wellFormed_refuses_div_zero : (Instr.pwmCfg 0 4).wellFormed = false := by decide
theorem test_wellFormed_refuses_top_zero : (Instr.pwmCfg 2 0).wellFormed = false := by decide
theorem test_wellFormed_accepts : (Instr.pwmCfg 1 1).wellFormed = true ∧ wellFormedWord 0x3000010001#40 = true := by
  decide
theorem test_opcode_table_rows : opcodeTable.length = 27 := by decide

/-! ### One step each, from the worked examples -/

/-- R133: from reset the write is accepted. -/
theorem test_write_accepted : after (.icf0Write 0x80) (issuedBy .prod) (fun t => (t.icf0, t.mem, t.results.prod)) =
    some (⟨1, 0, 0, 0, 0, 0⟩, [(0, 0x80)], .done) := by decide
/-- R133: the second write holds. -/
theorem test_write_held : after (.icf0Write 0x81) (withIcf0 ⟨1, 0, 0, 0, 0, 0⟩ .prod)
    (fun t => (t.icf0, t.mem, t.results.prod)) = some (⟨1, 0, 0, 0, 0, 0⟩, [(0, 0x80)], .hold) := by decide
/-- R134: the probe of a full slot stores nothing. -/
theorem test_trywrite_refused : after (.icf0Trywrite 0x81) (withIcf0 ⟨1, 1, 0, 0, 1, 1⟩ .prod)
    (fun t => (t.icf0, t.mem, t.results.prod)) = some (⟨1, 1, 1, 0, 1, 1⟩, [(0, 0x80)], .doneBit 0) := by decide
/-- R134: the probe of a free slot. -/
theorem test_trywrite_accepted : after (.icf0Trywrite 0x81) (withIcf0 ⟨1, 1, 1, 1, 1, 1⟩ .prod)
    (fun t => (t.icf0, t.mem, t.results.prod)) = some (⟨0, 1, 1, 1, 1, 1⟩, [(0, 0x81)], .doneBit 1) := by decide
/-- R135: the word is delivered. -/
theorem test_read_delivered : after .icf0Read (withIcf0 ⟨1, 0, 0, 0, 1, 1⟩ .cons)
    (fun t => (t.icf0, t.mem, t.results.cons)) = some (⟨1, 1, 0, 0, 1, 1⟩, [(0, 0x80)], .doneWord 0x80) := by decide
/-- R135: not yet synchronised. -/
theorem test_read_held : after .icf0Read (withIcf0 ⟨1, 0, 0, 0, 0, 0⟩ .cons)
    (fun t => (t.icf0, t.results.cons)) = some (⟨1, 0, 0, 0, 1, 0⟩, .hold) := by decide
/-- R132. -/
theorem test_wtick : after .icf0Wtick (withIcf0 ⟨1, 1, 1, 0, 1, 1⟩ (.wclk .icf0)) (fun t => (t.icf0, fullW t.icf0)) =
    some (⟨1, 1, 1, 1, 1, 1⟩, false) := by decide
/-- R136. -/
theorem test_rtick : after .icf0Rtick (withIcf0 ⟨1, 0, 0, 0, 1, 0⟩ (.rclk .icf0)) (fun t => (t.icf0, emptyR t.icf0)) =
    some (⟨1, 0, 0, 0, 1, 1⟩, false) := by decide
/-- Trace C: the acknowledgement goes into ICF1 and leaves ICF0 alone. -/
theorem test_ack_icf1 : after (.icf1Trywrite 0) (issuedBy .cons) (fun t => (t.icf1, t.icf0, t.mem, t.results.cons)) =
    some (⟨1, 0, 0, 0, 0, 0⟩, Icf.reset, [(1, 0)], .doneBit 1) := by decide
/-- R133 on ICF1: a second word. -/
theorem test_write_icf1 : after (.icf1Write 7) (issuedBy .cons) (fun t => (t.icf1, t.mem, t.results.cons)) =
    some (⟨1, 0, 0, 0, 0, 0⟩, [(1, 7)], .done) := by decide
/-- Trace C: the producer reads ICF1. -/
theorem test_read_icf1 : after .icf1Read { issuedBy .prod with icf1 := ⟨1, 0, 0, 0, 1, 1⟩, mem := [(1, 0)] }
    (fun t => (t.icf1, t.results.prod)) = some (⟨1, 1, 0, 0, 1, 1⟩, .doneWord 0) := by decide
/-- R132 on ICF1. -/
theorem test_wtick_icf1 : after .icf1Wtick { issuedBy (.wclk .icf1) with icf1 := ⟨1, 1, 0, 0, 1, 1⟩ } (fun t => t.icf1) =
    some ⟨1, 1, 1, 0, 1, 1⟩ := by decide
/-- R136 on ICF1. -/
theorem test_rtick_icf1 : after .icf1Rtick { issuedBy (.rclk .icf1) with icf1 := ⟨1, 0, 0, 0, 0, 0⟩ } (fun t => t.icf1) =
    some ⟨1, 0, 0, 0, 1, 0⟩ := by decide
/-- R165: from reset. -/
theorem test_cfg : after (.pwmCfg 1 4096) (issuedBy .cons) (fun t => (t.apwm, t.results.cons)) =
    some (⟨.configured, 4096, 1, 0, 0, 0, 0, false, false⟩, .done) := by decide
/-- R165, R235: V2 is tested before V3, and it is the one report, of an issuer that R245 does not permit too (log 8). -/
theorem test_cfg_twice : after (.pwmCfg 0 0) (withApwm ⟨.configured, 4096, 1, 0, 0, 0, 0, false, false⟩ .prod)
    (fun t => (t.apwm.top, t.results.prod, t.violations)) = some (4096, .ignored .v2, [.v2]) := by decide
/-- R166. -/
theorem test_start : after .pwmStart (withApwm ⟨.configured, 4, 1, 2, 0, 0, 0, false, false⟩ .cons)
    (fun t => (t.apwm, pwmOut t.apwm)) = some (⟨.running, 4, 1, 2, 2, 0, 0, false, false⟩, true) := by decide
/-- Trace E: no start from reset. -/
theorem test_start_ignored : after .pwmStart (issuedBy .cons) (fun t => (t.apwm, t.results.cons)) =
    some (Apwm.reset, .ignored .v2) := by decide
/-- R167: only `CC` is written; V5 outside a section (trace H). -/
theorem test_setduty : after (.pwmSetduty 1024) (withApwm ⟨.running, 4096, 1, 0, 0, 17, 0, false, true⟩ .cons)
    (fun t => (t.apwm, t.violations)) = some (⟨.running, 4096, 1, 1024, 0, 17, 0, false, true⟩, [.v5]) := by decide
/-- R167: `val = TOP` is inside the contract and `TOP + 1` is not (traces E, H). -/
theorem test_setduty_range :
    after (.pwmSetduty 4) { withApwm (carrier 0 false) .cons with core := ⟨true, false, false⟩ } (fun t => t.violations) =
      some [] ∧
    after (.pwmSetduty 5) { withApwm (carrier 0 false) .cons with core := ⟨true, false, false⟩ }
      (fun t => (t.apwm.cc, t.violations)) = some (5, [.v4]) := by decide
/-- R168: unmasking with the flag set raises the line at once (trace E). -/
theorem test_irqen : after (.pwmIrqen true) (withApwm ⟨.running, 3, 2, 2, 2, 0, 1, true, false⟩ .cons)
    (fun t => (t.apwm.wrapIe, irqLine t.apwm)) = some (true, true) := by decide
/-- Trace E: ignored before the configuration. -/
theorem test_irqen_ignored : after (.pwmIrqen true) (issuedBy .cons) (fun t => (t.apwm.wrapIe, t.results.cons)) =
    some (false, .ignored .v2) := by decide
/-- R169. -/
theorem test_irqclr : after .pwmIrqclr (withApwm ⟨.running, 4, 1, 2, 2, 0, 0, true, true⟩ .hand)
    (fun t => (t.apwm, irqLine t.apwm)) = some (⟨.running, 4, 1, 2, 2, 0, 0, false, true⟩, false) := by decide
/-- R171: the wrap loads the compare value and sets the flag. -/
theorem test_tick_wraps : after .pwmTick (withApwm (carrier 3 false) .pclk) (fun t => t.apwm) =
    some ⟨.running, 4, 1, 3, 3, 0, 0, true, true⟩ := by decide
/-- Trace E: the divider counts first. -/
theorem test_tick_divides : after .pwmTick (withApwm ⟨.running, 3, 2, 2, 1, 0, 0, false, false⟩ .pclk) (fun t => t.apwm) =
    some ⟨.running, 3, 2, 2, 1, 0, 1, false, false⟩ := by decide
/-- Trace I, third low sample: edge, latch, toggle. -/
theorem test_sample_edge : after (.btn0Sample false) { issuedBy (.bclk .btn0) with btn0 := ⟨false, false, false, false, false⟩ }
    (fun t => (t.btn0, t.play, t.results.clock)) = some (⟨false, false, true, true, true⟩, .paused, .doneSample 0b11) := by
  decide
/-- Trace I: held, no edge, no toggle. -/
theorem test_sample_held :
    after (.btn0Sample false) { issuedBy (.bclk .btn0) with btn0 := ⟨false, false, true, true, true⟩, play := .paused }
      (fun t => (t.btn0, t.play, t.results.clock)) = some (⟨false, false, true, true, true⟩, .paused, .doneSample 0b10) := by
  decide
/-- R193: `PLAY = 2`, `LEVEL = 1`, `PRESSED = 1`. -/
theorem test_btn0_read : after .btn0Read { issuedBy .cons with btn0 := ⟨false, false, true, true, true⟩, play := .paused }
    (fun t => t.results.cons) = some (.doneButton 0b1011) := by decide
/-- R194: the held level stays known. -/
theorem test_btn0_clear : after .btn0Clear { issuedBy .cons with btn0 := ⟨false, false, true, true, true⟩ } (fun t => t.btn0) =
    some ⟨false, false, true, true, false⟩ := by decide
/-- Trace J: an edge on BTN1 does not toggle PLAY. -/
theorem test_btn1_sample : after (.btn1Sample true) { issuedBy (.bclk .btn1) with btn1 := ⟨true, false, false, false, false⟩ }
    (fun t => (t.btn1, t.play, t.results.clock)) = some (⟨true, true, true, true, true⟩, .playing, .doneSample 0b11) := by
  decide
/-- Trace J: the upper bits are 0 on BTN1. -/
theorem test_btn1_read : after .btn1Read { issuedBy .cons with btn1 := ⟨true, true, false, false, true⟩ }
    (fun t => t.results.cons) = some (.doneButton 0b0001) := by decide
/-- Trace J. -/
theorem test_btn1_clear : after .btn1Clear { issuedBy .cons with btn1 := ⟨true, true, false, false, true⟩ } (fun t => t.btn1) =
    some Btn.reset := by decide
/-- R211. -/
theorem test_wfi : after .coreWfi (issuedBy .cons) (fun t => (t.core, t.results.cons)) = some (⟨false, false, true⟩, .hold) := by
  decide
/-- V6: the hardware goes on, and a refusing model refuses. -/
theorem test_wfi_masked :
    after .coreWfi (withCore true false false .cons) (fun t => (t.core, t.violations)) =
      some (⟨true, false, true⟩, [.v6]) ∧
    refusal .coreWfi (refusing (withCore true false false .cons)) = some (.contract [.v6]) := by decide
/-- Trace K: the inner section's token is 1. -/
theorem test_csenter : after .coreCsenter (issuedBy .cons) (fun t => (t.core.imask, t.results.cons)) = some (true, .doneToken 0) ∧
    after .coreCsenter (withCore true false false .cons) (fun t => t.results.cons) = some (.doneToken 1) := by decide
/-- Trace K: V9 with no section open. -/
theorem test_csexit : after (.coreCsexit false) (withCore true false false .cons) (fun t => (t.core.imask, t.violations)) =
      some (false, []) ∧
    after (.coreCsexit false) (issuedBy .cons) (fun t => t.violations) = some [.v9] := by decide
/-- R215: entry does not acknowledge. -/
theorem test_irqentry :
    after .coreIrqentry { withApwm (carrier 0 true) .irq with core := ⟨false, false, true⟩ }
      (fun t => (t.core, t.apwm.wrapIf)) = some (⟨false, true, true⟩, true) := by decide
/-- R215: where it is not enabled it does not exist. -/
theorem test_irqentry_absent : refusal .coreIrqentry (issuedBy .irq) = some (.noSuchStep .irq) := by decide
/-- R216: the wait on hold is done. -/
theorem test_irqret : after .coreIrqret (withCore false true true .hand) (fun t => (t.core, t.results.cons, t.results.hand)) =
    some (⟨false, false, false⟩, .done, .done) := by decide
/-- Trace K: no handler running. -/
theorem test_irqret_ignored : after .coreIrqret (issuedBy .hand) (fun t => (t.core, t.results.hand)) =
    some (CoreA.reset, .ignored .v7) := by decide
/-- R177 (d): the word 0xDEADBEEF rescales to 1912. -/
theorem test_rescale : rescale 0xDEADBEEF = 1912 ∧ setSample 128 = .present .cons 0x3200000400#40 := by decide
/-- The placed word runs first after reset. -/
theorem test_placed_word_runs :
    (State.reset.withFetchWord 40 0x3000011000).inputs = [.present .cons 0x3000011000#40] := by decide
/-- The pseudo-operation ISR (R112) serves one interrupt. -/
theorem test_isr : ran isr (withApwm (carrier 0 true) .cons) (fun t => (t.apwm.wrapIf, t.core, t.violations)) =
    some (false, CoreA.reset, []) := by decide

/-! ### Witnesses: a state and operands for the hypotheses of each statement, for each clause -/

/-- A state with an occupied slot that the reader sees. -/
def occupiedState (a : Agent) : State := withIcf0 ⟨1, 0, 0, 0, 1, 1⟩ a

/-- A state with a free slot that the writer sees, after one word has gone through. -/
def freeState (a : Agent) : State := withIcf0 ⟨1, 1, 1, 1, 1, 1⟩ a

/-- The interrupt can be entered, and IRQ_LATENCY_ZERO is set. -/
def entryFirst : State := { withApwm (carrier 0 true) .cons with params := ⟨true, true, false⟩ }

/-- The foreground waits with the interrupt pending. -/
def waitingState : State := { withApwm (carrier 0 true) .cons with core := ⟨false, false, true⟩ }

/-- A section is open with the interrupt pending. -/
def sectionState : State := { withApwm (carrier 0 true) .cons with core := ⟨true, false, false⟩ }

/-- A free state with a write as the next input. -/
def writeNext : State := { freeState .cons with inputs := [writeByte .icf0 0x80] }

theorem test_witness_inv_free : HwInv (freeState .cons).toHardware :=
  ⟨by decide, by unfold icfInv; decide, by unfold icfInv; decide, fun h => absurd h (by decide),
    fun h => absurd h (by decide), rfl, rfl, rfl, by decide⟩

theorem test_witness_inv_occupied : HwInv (occupiedState .cons).toHardware :=
  ⟨by decide, by unfold icfInv; decide, by unfold icfInv; decide, fun _ => rfl, fun h => absurd h (by decide), rfl, rfl,
    rfl, by decide⟩

theorem test_witness_EncodeDecodeRoundTrip : decode 0x6200000001#40 = .ok (.coreCsexit true) := by decide

theorem test_witness_DecodeAcceptsExactlyTable :
    wellFormedWord 0x6400000000#40 = true ∧ wellFormedWord 0x6500000000#40 = false := by decide

theorem test_witness_StepRunsDecoded :
    let s : State := { State.reset with inputs := [.present .cons 0x6100000000#40] }
    s.inputs = .present .cons 0x6100000000#40 :: [] ∧ decode 0x6100000000#40 = .ok .coreCsenter ∧
      mayPresent s .cons .coreCsenter = true := by decide

theorem test_witness_StepTakesFreeInput : State.reset.inputs = [] := rfl

/-- IRQ_LATENCY_ZERO is set and no interrupt is pending. -/
def latencyIdle : State := { State.reset with params := ⟨true, true, false⟩ }

theorem test_witness_OnlyRunningAgentSteps_foreground :
    ((withCore false true false .cons).core.inh = true ∧ (withCore false false true .cons).core.waiting = true) ∧
    (State.reset.core.inh = false ∧ State.reset.core.waiting = false ∧ State.reset.params.irqLatencyZero = false) ∧
    (latencyIdle.core.inh = false ∧ latencyIdle.core.waiting = false ∧ latencyIdle.params.irqLatencyZero = true ∧
      entryEnabled latencyIdle.toHardware = false) := by decide

theorem test_witness_OnlyRunningAgentSteps_handler :
    (State.reset.core.inh = false ∧ Instr.pwmIrqclr ≠ .coreIrqret) ∧ (withCore false true false .hand).core.inh = true := by
  decide

theorem test_witness_OnlyRunningAgentSteps_entry :
    entryEnabled State.reset.toHardware = false ∧
    (entryFirst.params.irqLatencyZero = true ∧ entryEnabled entryFirst.toHardware = true) := by decide

/-- The flag is set and the line still masked. -/
theorem test_witness_NoInterruptBeforeUnmask :
    let ins := [line .cons (.pwmCfg 1 1), line .cons .pwmStart, tickLine]
    noReset ins ∧ (∀ x ∈ ins, inputOp x ≠ some (.pwmIrqen true)) ∧ ran ins State.reset (fun t => t.apwm.wrapIf) = some true := by
  unfold noReset; decide

theorem test_witness_BootReachesRunning : (1 : Reg) ≠ 0 ∧ (65535 : Reg) ≠ 0 := by decide

theorem test_witness_IcfWriteAcceptedOrHeld :
    (issuerTolerated (issuedBy .prod) (.icfWrite .icf0 0) ∧ fullW ((issuedBy .prod).toHardware.icf .icf0) = false) ∧
    (issuerTolerated (occupiedState .prod) (.icfWrite .icf0 0xFFFFFFFF) ∧
      fullW ((occupiedState .prod).toHardware.icf .icf0) = true) :=
  ⟨⟨.inl rfl, by decide⟩, .inl rfl, by decide⟩

/-- The consumer writes towards itself (V8), which the parameters of reset tolerate. -/
theorem test_witness_IcfTrywriteAcceptedOrNot :
    (issuerTolerated (issuedBy .cons) (.icfTrywrite .icf0 0) ∧ fullW ((issuedBy .cons).toHardware.icf .icf0) = false) ∧
    (issuerTolerated (occupiedState .prod) (.icfTrywrite .icf0 1) ∧
      fullW ((occupiedState .prod).toHardware.icf .icf0) = true) :=
  ⟨⟨.inr rfl, by decide⟩, .inl rfl, by decide⟩

theorem test_witness_IcfReadDeliveredOrHeld :
    (issuerTolerated (occupiedState .cons) (.icfRead .icf0) ∧
      emptyR ((occupiedState .cons).toHardware.icf .icf0) = false) ∧
    (issuerTolerated (issuedBy .prod) (.icfRead .icf1) ∧ emptyR ((issuedBy .prod).toHardware.icf .icf1) = true) :=
  ⟨⟨.inl rfl, by decide⟩, .inl rfl, by decide⟩

theorem test_witness_IcfTicksShiftSynchroniser :
    issuerTolerated (issuedBy (.wclk .icf1)) (.icfWtick .icf1) ∧ issuerTolerated (issuedBy (.rclk .icf0)) (.icfRtick .icf0) ∧
    (icfInv ((freeState .cons).toHardware.icf .icf0) ∧ after (.icfWtick .icf0) (freeState .cons) (fun _ => ()) = some () ∧
      fullW ((freeState .cons).toHardware.icf .icf0) = false) ∧
    (icfInv ((occupiedState .cons).toHardware.icf .icf0) ∧ after (.icfRtick .icf0) (occupiedState .cons) (fun _ => ()) = some () ∧
      emptyR ((occupiedState .cons).toHardware.icf .icf0) = false) :=
  ⟨.inl rfl, .inl rfl, ⟨test_witness_inv_free.icf0, by decide, by decide⟩, test_witness_inv_occupied.icf0, by decide, by decide⟩

theorem test_witness_SlotReadAfterWrite : IcfId.icf0 ≠ .icf1 ∧ Memory.wf [(1, 5)] = true := by decide

theorem test_witness_FlagsStaleInSafeDirection :
    (icfInv Icf.reset ∧ fullW Icf.reset = false) ∧ (icfInv ⟨1, 0, 0, 0, 1, 1⟩ ∧ emptyR ⟨1, 0, 0, 0, 1, 1⟩ = false) := by
  unfold icfInv; decide

theorem test_witness_IcfImplementsSlot :
    HwInv (freeState .prod).toHardware ∧ HwInv (occupiedState .cons).toHardware ∧
    after (.icf0Write 5) (freeState .prod) (fun t => acceptedWord .icf0 (.icf0Write 5) (t.results.of t.issuer)) = some [5] ∧
    after .icf0Read (occupiedState .cons) (fun t => deliveredWord .icf0 .icf0Read (t.results.of t.issuer)) = some [0x80] ∧
    after .icf0Read (freeState .prod) (fun t => (acceptedWord .icf0 .icf0Read (t.results.of t.issuer),
      deliveredWord .icf0 .icf0Read (t.results.of t.issuer))) = some ([], []) :=
  ⟨test_witness_inv_free, test_witness_inv_occupied, by decide, by decide, by decide⟩

theorem test_witness_QueueKeepsOrder :
    noReset [writeByte .icf0 0x80, line .cons .icf0Read] ∧ HwInv (freeState .cons).toHardware ∧
    ran [writeByte .icf0 0x80, line .cons .icf0Read] (freeState .cons) (fun t => inSlot .icf0 t.toHardware) = some [0x80] ∧
    ran [writeByte .icf0 0x80, line .cons .icf0Read] State.reset (fun t => inSlot .icf0 t.toHardware) = some [0x80] :=
  ⟨by unfold noReset; decide, test_witness_inv_free, by decide, by decide⟩

/-- An occupied slot that the reader leaves alone, and a free slot that the writer leaves alone; both states have the
invariant (above). -/
theorem test_witness_StaleFlagsBounded :
    let ins := [line (.rclk .icf0) .icf0Rtick, line (.rclk .icf0) .icf0Rtick, line (.wclk .icf0) .icf0Wtick,
      line (.wclk .icf0) .icf0Wtick]
    noReset ins ∧ (occupied ((occupiedState .cons).toHardware.icf .icf0) = true ∧ delivered .icf0 ins (occupiedState .cons) = [] ∧
      2 ≤ countOps (isReadEdge .icf0) ins ∧ ran ins (occupiedState .cons) (fun _ => ()) = some ()) ∧
    (occupied ((freeState .cons).toHardware.icf .icf0) = false ∧ accepted .icf0 ins (freeState .cons) = [] ∧
      2 ≤ countOps (isWriteEdge .icf0) ins ∧ ran ins (freeState .cons) (fun _ => ()) = some ()) := by
  unfold noReset; decide

/-- Two read-side edges, one with a read presented, and other steps between. -/
def twoReads : List Input :=
  [tickLine, line .cons .icf0Read, line .prod (.icf0Write 9), line (.wclk .icf0) .icf0Wtick, line (.rclk .icf0) .icf0Rtick]

/-- Two write-side edges, one with a write presented, and other steps between. -/
def twoWrites : List Input :=
  [tickLine, line .prod (.icf0Write 9), line .cons .icf0Read, line (.rclk .icf0) .icf0Rtick, line (.wclk .icf0) .icf0Wtick]

theorem test_witness_WriteReadableAtThirdEdge :
    icfInv ((freeState .prod).toHardware.icf .icf0) ∧
    after (.icf0Write 7) (freeState .prod) (fun s₁ =>
      (acceptedWord .icf0 (.icf0Write 7) (s₁.results.of s₁.issuer), ran twoReads s₁ (fun _ => ()),
        ran (twoReads.take 2) s₁ (fun _ => ()))) = some ([7], some (), some ()) ∧
    noReset twoReads ∧ countOps (isReadEdge .icf0) twoReads = 2 ∧ countOps (isReadEdge .icf0) (twoReads.take 2) = 1 ∧
    ∀ t : State, issuerTolerated { t with issuer := .cons } (.icfRead .icf0) :=
  ⟨test_witness_inv_free.icf0, by decide, by unfold noReset; decide, by decide, by decide, fun _ => .inl rfl⟩

theorem test_witness_ReadWritableAtThirdEdge :
    icfInv ((occupiedState .cons).toHardware.icf .icf0) ∧
    after .icf0Read (occupiedState .cons) (fun s₁ =>
      (deliveredWord .icf0 .icf0Read (s₁.results.of s₁.issuer), ran twoWrites s₁ (fun _ => ()),
        ran (twoWrites.take 2) s₁ (fun _ => ()))) = some ([0x80], some (), some ()) ∧
    noReset twoWrites ∧ countOps (isWriteEdge .icf0) twoWrites = 2 ∧ countOps (isWriteEdge .icf0) (twoWrites.take 2) = 1 ∧
    ∀ t : State, issuerTolerated { t with issuer := .prod } (.icfWrite .icf0 0) ∧
      issuerTolerated { t with issuer := .prod } (.icfTrywrite .icf0 0) :=
  ⟨test_witness_inv_occupied.icf0, by decide, by unfold noReset; decide, by decide, by decide,
    fun _ => ⟨.inl rfl, .inl rfl⟩⟩

theorem test_witness_PwmCfgOnce :
    (State.reset.apwm.pstate = .uninit ∧ (65535 : Reg) ≠ 0 ∧ (1 : Reg) ≠ 0 ∧ issuerTolerated State.reset (.pwmCfg 1 65535)) ∧
    ((withApwm (carrier 0 false) .cons).apwm.pstate ≠ .uninit ∧
      (withApwm (carrier 0 false) .cons).params.refusing = false) ∧
    ((refusing (withApwm (carrier 0 false) .cons)).apwm.pstate ≠ .uninit ∧
      (refusing (withApwm (carrier 0 false) .cons)).params.refusing = true) ∧
    State.reset.params.refusing = false ∧
    (refusing State.reset).apwm.pstate = .uninit ∧ (refusing State.reset).params.refusing = true :=
  ⟨⟨rfl, by decide, by decide, .inl rfl⟩, by decide, by decide, rfl, rfl, rfl⟩

theorem test_witness_PwmStartRuns :
    ((withApwm ⟨.configured, 4, 1, 0, 0, 0, 0, false, false⟩ .cons).apwm.pstate = .configured ∧
      issuerTolerated (withApwm ⟨.configured, 4, 1, 0, 0, 0, 0, false, false⟩ .cons) .pwmStart) ∧
    (State.reset.apwm.pstate ≠ .configured ∧ State.reset.params.refusing = false) ∧
    ((refusing State.reset).apwm.pstate ≠ .configured ∧ (refusing State.reset).params.refusing = true) :=
  ⟨⟨rfl, .inl rfl⟩, by decide, by decide⟩

/-- `val = TOP` in a section; `val = TOP + 1` in a strictly refusing model. -/
theorem test_witness_PwmSetdutyWritesCompare :
    ((withApwm (carrier 0 false) .cons).apwm.pstate ≠ .uninit ∧
      strictlyRefusing (withApwm (carrier 0 false) .cons).params = false) ∧
    ((refusing (withApwm (carrier 0 false) .cons)).apwm.pstate ≠ .uninit ∧
      strictlyRefusing (refusing (withApwm (carrier 0 false) .cons)).params = true ∧ (carrier 0 false).top.toNat < (5 : Reg).toNat) ∧
    (State.reset.apwm.pstate = .uninit ∧ State.reset.params.refusing = false) ∧
    ((refusing State.reset).apwm.pstate = .uninit ∧ (refusing State.reset).params.refusing = true) := by decide

theorem test_witness_PwmIrqenMasksLine :
    ((withApwm (carrier 0 true) .cons).apwm.pstate ≠ .uninit ∧
      issuerTolerated (withApwm (carrier 0 true) .cons) (.pwmIrqen false)) ∧
    (State.reset.apwm.pstate = .uninit ∧ State.reset.params.refusing = false) ∧ (refusing State.reset).params.refusing = true :=
  ⟨⟨by decide, .inl rfl⟩, by decide, rfl⟩

theorem test_witness_PwmIrqclrClearsFlag :
    issuerTolerated (withApwm (carrier 0 true) .hand) .pwmIrqclr ∧ (issuedBy .cons).issuer ≠ .hand :=
  ⟨.inl rfl, by decide⟩

/-- The clock's own step is tolerated in every state. -/
theorem test_witness_PwmTickCounts_issuer (x : Apwm) : issuerTolerated (withApwm x .pclk) .pwmTick := .inl rfl

theorem test_witness_PwmTickCounts :
    (withApwm Apwm.reset .pclk).apwm.pstate ≠ .running ∧
    ((withApwm ⟨.running, 3, 2, 2, 1, 0, 0, false, false⟩ .pclk).apwm.pstate = .running ∧
      (withApwm ⟨.running, 3, 2, 2, 1, 0, 0, false, false⟩ .pclk).apwm.pre ≠ (2 : Reg) - 1) ∧
    ((withApwm (carrier 2 false) .pclk).apwm.pstate = .running ∧ (carrier 2 false).pre = (carrier 2 false).div - 1 ∧
      (carrier 2 false).ctr ≠ (carrier 2 false).top - 1) ∧
    ((withApwm (carrier 3 false) .pclk).apwm.pstate = .running ∧ (carrier 3 false).pre = (carrier 3 false).div - 1 ∧
      (carrier 3 false).ctr = (carrier 3 false).top - 1) := by decide

theorem test_witness_PwmStateOnlyAdvances :
    after (.pwmCfg 1 4) State.reset (fun t => t.apwm.pstate) = some .configured ∧
    after .pwmStart (withApwm ⟨.configured, 4, 1, 0, 0, 0, 0, false, false⟩ .cons) (fun t => t.apwm.pstate) = some .running ∧
    (after (.pwmCfg 1 4) (withApwm (carrier 0 false) .cons) (fun _ => ()) = some () ∧ (carrier 0 false).pstate ≠ .uninit) ∧
    (after .pwmStart State.reset (fun _ => ()) = some () ∧ State.reset.apwm.pstate ≠ .configured) ∧
    (after (.pwmSetduty 0) State.reset (fun _ => ()) = some () ∧ after (.pwmIrqen true) State.reset (fun _ => ()) = some () ∧
      State.reset.apwm.pstate = .uninit) := by decide

/-- The start of a period, and the last tick before its wrap. -/
theorem test_witness_PwmPeriodExact :
    let a := carrier 0 false
    a.pstate = .running ∧ a.top ≠ 0 ∧ a.div ≠ 0 ∧ a.ctr = 0 ∧ a.pre = 0 ∧ 3 < a.div.toNat * a.top.toNat := by decide

theorem test_witness_PwmOutputProportional :
    ((carrier 0 false).pstate = .running ∧ (carrier 0 false).top ≠ 0 ∧ (carrier 0 false).div ≠ 0 ∧
      (carrier 0 false).ctr = 0 ∧ (carrier 0 false).pre = 0 ∧
      0 < (carrier 0 false).div.toNat * (carrier 0 false).top.toNat) := by decide

/-- A running carrier whose `TOP` is the greatest duty value of a sample. -/
def emitting : State := withApwm { carrier 0 false with top := 2040 } .cons

theorem test_witness_EmissionWritesDuty :
    emitting.apwm.pstate = .running ∧ emitting.core = ⟨false, false, false⟩ ∧ emitting.params.irqLatencyZero = false ∧
    2040 ≤ emitting.apwm.top.toNat := by decide

theorem test_witness_WritesAndReadsAlternate :
    noReset [writeByte .icf0 0x80, line .cons .icf0Read] ∧
    ran [writeByte .icf0 0x80, line .cons .icf0Read] State.reset (fun t => occupied t.icf0) = some true := by
  unfold noReset; decide

/-- The handler runs at the last tick of a period. -/
def wrapInHandler : State := { withApwm (carrier 3 true) .hand with core := ⟨false, true, false⟩ }

/-- A press is about to be recognised while the flag is set. -/
def pressPending : State := { State.reset with btn0 := ⟨false, false, false, false, true⟩ }

theorem test_witness_SetWinsOverClear :
    (wrapInHandler.apwm.pstate = .running ∧ atWrap wrapInHandler.apwm = true ∧ wrapInHandler.core.inh = true) ∧
    (edgeNow (pressPending.toHardware.btn .btn0) = true ∧ pressPending.core.inh = false ∧
      pressPending.core.waiting = false ∧ pressPending.params.irqLatencyZero = false) := by decide

theorem test_witness_RescaleLaws : (254 : Sample).toNat < (255 : Sample).toNat := by decide

theorem test_witness_BtnSampleDetectsEdge :
    issuerTolerated (issuedBy (.bclk .btn0)) (.btnSample .btn0 false) ∧
    issuerTolerated (issuedBy (.bclk .btn1)) (.btnSample .btn1 true) ∧ BtnId.btn1 ≠ .btn0 :=
  ⟨.inl rfl, .inl rfl, by decide⟩

theorem test_witness_BtnReadReturnsFlags :
    issuerTolerated (issuedBy .cons) .btn0Read ∧ issuerTolerated (issuedBy .cons) .btn1Read := ⟨.inl rfl, .inl rfl⟩

theorem test_witness_BtnClearClearsLatch :
    issuerTolerated (issuedBy .cons) .btn0Clear ∧ issuerTolerated (issuedBy .cons) .btn1Clear := ⟨.inl rfl, .inl rfl⟩

theorem test_witness_WfiSuspends :
    (State.reset.core.imask = false ∧ issuerTolerated State.reset .coreWfi) ∧
    ((withCore true false false .cons).core.imask = true ∧ (withCore true false false .cons).params.refusing = false) ∧
    ((refusing (withCore true false false .cons)).core.imask = true ∧
      (refusing (withCore true false false .cons)).params.refusing = true) :=
  ⟨⟨rfl, .inl rfl⟩, ⟨rfl, rfl⟩, rfl, rfl⟩

theorem test_witness_MaskedWaitNeverEnds :
    (∀ x ∈ [tickLine, writeByte .icf0 1], ∃ a w i, x = .present a w ∧ decode w = .ok i ∧ permits a i = true) ∧
    (withCore true false true .cons).core = ⟨true, false, true⟩ ∧
    ran [tickLine, writeByte .icf0 1] (withCore true false true .cons) (fun _ => ()) = some () := by
  refine ⟨?_, rfl, by decide⟩
  intro x h
  rcases List.mem_cons.mp h with rfl | h
  · exact ⟨_, _, .pwmTick, rfl, by decide, by decide⟩
  · rcases List.mem_cons.mp h with rfl | h
    · exact ⟨_, _, .icf0Write 1, rfl, by decide, by decide⟩
    · cases h

theorem test_witness_CsenterClosesMask : issuerTolerated (withCore false true false .hand) .coreCsenter := .inl rfl

theorem test_witness_CsexitRestoresMask :
    ((withCore true false false .cons).core.imask = true ∧ issuerTolerated (withCore true false false .cons) (.coreCsexit true)) ∧
    (State.reset.core.imask = false ∧ State.reset.params.refusing = false) ∧
    ((refusing State.reset).core.imask = false ∧ (refusing State.reset).params.refusing = true) :=
  ⟨⟨rfl, .inl rfl⟩, ⟨rfl, rfl⟩, rfl, rfl⟩

theorem test_witness_IrqentrySetsInHandler :
    ((withApwm (carrier 0 true) .irq).apwm.wrapIf = true ∧ (withApwm (carrier 0 true) .irq).apwm.wrapIe = true ∧
      (withApwm (carrier 0 true) .irq).core.imask = false ∧ (withApwm (carrier 0 true) .irq).core.inh = false ∧
      issuerTolerated (withApwm (carrier 0 true) .irq) .coreIrqentry) ∧
    State.reset.apwm.wrapIf = false :=
  ⟨⟨rfl, rfl, rfl, rfl, .inl rfl⟩, rfl⟩

theorem test_witness_IrqretReturns :
    ((withCore false true true .hand).core.inh = true ∧ issuerTolerated (withCore false true true .hand) .coreIrqret) ∧
    (State.reset.core.inh = false ∧ State.reset.params.refusing = false) ∧
    ((refusing State.reset).core.inh = false ∧ (refusing State.reset).params.refusing = true) :=
  ⟨⟨rfl, .inl rfl⟩, ⟨rfl, rfl⟩, rfl, rfl⟩

theorem test_witness_WaitSeesOneHandlerRun :
    noReset isr ∧ waitingState.core.waiting = true ∧ waitingState.core.inh = false ∧
      ran isr waitingState (fun t => t.core.waiting) = some false := by
  unfold noReset; decide

theorem test_witness_HandlerFormsAgree :
    (withCore false true true .hand).core.inh = true ∧ (withCore false true true .hand).core.imask = false := by decide

theorem test_witness_NoEntryInsideSection :
    noReset [setSample 0] ∧ (∀ x ∈ [setSample 0], ∀ b, inputOp x ≠ some (.coreCsexit b)) ∧ sectionState.core.imask = true ∧
      ran [setSample 0] sectionState (fun _ => ()) = some () := by
  unfold noReset; decide

theorem test_witness_NestedSectionsRestore :
    (State.reset.core = ⟨false, false, false⟩ ∧ State.reset.params.irqLatencyZero = false) ∧
    (mayStep sectionState .cons = true ∧ mayStep (withCore false true true .hand) .hand = true) ∧
    (ran (criticalSectionFrom .cons sectionState [setSample 1]) sectionState (fun t => t.core.imask) = some true ∧
      ran (criticalSectionFrom .hand (withCore false true true .hand) [line .hand .pwmIrqclr])
        (withCore false true true .hand) (fun t => t.core.imask) = some false) := by decide

/-- The inputs of a run in which the pending interrupt is taken at once and a button is then sampled for ever. -/
def takenInputs : Nat → Input
  | 0 => line .irq .coreIrqentry
  | _ + 1 => sampleLine .btn1 true

/-- The state of a run step, or the one before it where the step stops. -/
def stateAfter (x : Input) (s : State) : State :=
  match applyInput x s with
  | .next t => t
  | .fault _ => s
  | .refused _ => s

/-- The states of that run: after two steps it does not change any more. -/
def takenStates : Nat → State
  | 0 => waitingState
  | 1 => stateAfter (takenInputs 0) waitingState
  | _ + 2 => stateAfter (takenInputs 1) (stateAfter (takenInputs 0) waitingState)

theorem test_witness_PendingInterruptEndsUpTaken :
    isRun takenInputs takenStates ∧ fairEntry takenInputs takenStates ∧
    (∀ n, ∃ a w i, takenInputs n = .present a w ∧ decode w = .ok i ∧ permits a i = true) ∧
    (takenStates 0).core.waiting = true ∧ entryEnabled (takenStates 0).toHardware = true := by
  refine ⟨?_, ?_, ?_, by decide, by decide⟩
  · intro n
    match n with
    | 0 => rfl
    | 1 => rfl
    | _ + 2 => rfl
  · intro n stays
    have off : ∀ k, entryEnabled (takenStates (k + 1)).toHardware = false := by
      intro k
      match k with
      | 0 => decide
      | _ + 1 => rfl
    exact absurd (stays (n + 1) (Nat.le_succ n)) (by rw [off n]; decide)
  · intro n
    match n with
    | 0 => exact ⟨_, _, .coreIrqentry, rfl, by decide, by decide⟩
    | _ + 1 => exact ⟨_, _, .btn1Sample true, rfl, by decide, by decide⟩

/-- For each clause an operation that writes the element. -/
theorem test_witness_OnlyNamedOperationsWrite :
    after (.icf0Write 7) (issuedBy .prod) (fun t => (memRead .icf0 t.toHardware, t.icf0.wptr)) = some (some 7, 1) ∧
    after .icf0Read (occupiedState .cons) (fun t => t.icf0.rptr) = some 1 ∧
    after .icf0Wtick (withIcf0 ⟨1, 1, 0, 0, 1, 1⟩ (.wclk .icf0)) (fun t => t.icf0.wq1) = some 1 ∧
    after .icf0Rtick (withIcf0 ⟨1, 0, 0, 0, 0, 0⟩ (.rclk .icf0)) (fun t => t.icf0.rq1) = some 1 ∧
    after (.pwmCfg 2 3) State.reset (fun t => (t.apwm.pstate, t.apwm.top, t.apwm.div)) = some (.configured, 3, 2) ∧
    after (.pwmSetduty 1) (withApwm (carrier 0 false) .cons) (fun t => t.apwm.cc) = some 1 ∧
    after .pwmTick (withApwm (carrier 3 false) .pclk) (fun t => (t.apwm.ccAct, t.apwm.ctr, t.apwm.wrapIf)) =
      some (3, 0, true) ∧
    after (.pwmIrqen false) (withApwm (carrier 0 false) .cons) (fun t => t.apwm.wrapIe) = some false ∧
    after (.btn0Sample false) { issuedBy (.bclk .btn0) with btn0 := ⟨false, false, false, false, false⟩ }
      (fun t => (t.btn0.s1, t.btn0.level, t.btn0.wasDown, t.btn0.pressed, t.play)) =
      some (false, true, true, true, .paused) ∧
    after (.btn1Sample true) { issuedBy (.bclk .btn1) with btn1 := ⟨false, true, false, false, false⟩ }
      (fun t => (t.btn1.s1, t.btn1.s2)) = some (true, false) ∧
    after .btn0Clear { issuedBy .cons with btn0 := ⟨true, true, false, false, true⟩ } (fun t => t.btn0.pressed) = some false ∧
    after .coreCsenter State.reset (fun t => t.core.imask) = some true ∧
    after .coreIrqret (withCore false true true .hand) (fun t => (t.core.inh, t.core.waiting)) = some (false, false) := by
  decide

theorem test_witness_PortsCannotTellIssuer :
    State.reset.params.refusing = false ∧ after (.icf0Write 7) (issuedBy .hand) (fun _ => ()) = some () := by decide

theorem test_witness_UnpermittedIssuerRefused :
    permits (refusing (issuedBy .hand)).issuer (.icf0Write 7) = false ∧
      strictlyRefusing (refusing (issuedBy .hand)).params = true ∧
    refusal (.icf0Write 7) (refusing (issuedBy .hand)) = some (.contract [.v8]) ∧
    refusal .btn0Read (refusing (issuedBy .prod)) = some (.contract [.v7]) ∧
    refusal .pwmTick (refusing (issuedBy .cons)) = some (.contract [.v7]) ∧
    refusal .pwmStart (refusing (issuedBy .hand)) = some (.contract [.v2]) ∧
    refusal (.pwmCfg 1 0) (refusing (issuedBy .hand)) = some (.contract [.v3]) ∧
    refusal (.pwmSetduty 5) (refusing (withApwm (carrier 0 false) .hand)) = some (.contract [.v4]) ∧
    refusal .coreWfi (refusing (withCore true false false .prod)) = some (.contract [.v6]) ∧
    refusal (.coreCsexit false) (refusing (issuedBy .prod)) = some (.contract [.v9]) := by decide

/-- The last clause of the statement: an entry that is not enabled, presented by an agent other than `irq`. -/
theorem test_witness_UnpermittedIssuerRefused_noStep :
    permits (refusing (issuedBy .cons)).issuer .coreIrqentry = false ∧
      strictlyRefusing (refusing (issuedBy .cons)).params = true ∧
    entryEnabled (refusing (issuedBy .cons)).toHardware = false ∧
    refusal .coreIrqentry (refusing (issuedBy .cons)) = some (.noSuchStep .cons) := by decide

theorem test_witness_RefusingOnlyRemovesRuns :
    after (.icf0Write 7) (refusing (issuedBy .prod)) (fun _ => ()) = some () ∧
      strictlyRefusing (refusing (issuedBy .prod)).params = true := by decide

theorem test_witness_StepKeepsInvariant :
    HwInv writeNext.toHardware ∧ ∃ t, step writeNext = .next t :=
  ⟨test_witness_inv_free, _, rfl⟩

/-! ### Held requests (R13, R243, R281) -/

/-- From reset the read of `CONS` holds; an edge of its clock without it breaks the hold, as another operation does; an edge
of another clock, and the next reset, do not. -/
theorem test_keepsHeld_edges :
    keepsHeld .cons none [line .cons .icf0Read, line .cons .icf0Read] State.reset = true ∧
    keepsHeld .cons none [line .cons .icf0Read, line .pclk .pwmTick, line .cons .icf0Read] State.reset = true ∧
    keepsHeld .cons none [line .cons .icf0Read, line (.rclk .icf0) .icf0Rtick, line .cons .icf0Read] State.reset = false ∧
    keepsHeld .cons none [line .cons .icf0Read, line .cons .btn0Read] State.reset = false ∧
    keepsHeld .cons none [line .cons .icf0Read, .reset, line (.rclk .icf0) .icf0Rtick] State.reset = true := by decide

/-- R243: while the handler runs the edges of the clock carry no request, and after its return they must. -/
theorem test_keepsHeld_handler :
    keepsHeld .cons (some .icf0Read) ([line .irq .coreIrqentry, line (.rclk .icf0) .icf0Rtick] ++ handlerShort ++
      [line .cons .icf0Read]) (withApwm (carrier 0 true) .cons) = true ∧
    keepsHeld .cons (some .icf0Read) (isr ++ [line (.rclk .icf0) .icf0Rtick]) (withApwm (carrier 0 true) .cons) = false := by
  decide

end Sys2Proof.Tests
end

/-! The statements of spec/00_scope.md: the free input (R7, R55; log 1) and the storage (R12, R70). -/

namespace Sys2Proof.Machine

/-- With no input listed the next free input is taken, and the one after it is next. -/
theorem takeInput_of_inputs_nil {s : State} (h : s.inputs = []) :
    takeInput s = (Config.environment s.envIndex, { s with envIndex := s.envIndex + 1 }) := by
  simp only [takeInput, h]

/-- The step law for an empty list, beside the one for a listed input: the step applies the next free input. -/
theorem step_of_inputs_nil {s : State} (h : s.inputs = []) :
    step s = applyInput (Config.environment s.envIndex) { s with envIndex := s.envIndex + 1 } := by
  simp only [step, stepOnce, takeInput_of_inputs_nil h]

/-- Settles O7: the step law for an empty list of inputs. -/
theorem stepTakesFreeInput : Obligations.StepTakesFreeInput := by
  unfold Obligations.StepTakesFreeInput
  intro s noInput
  exact step_of_inputs_nil noInput

/-- Settles O19, clause by clause from the laws of the memory: a store is read back, it leaves the other slot, and it keeps
the canonical form. -/
theorem slotReadAfterWrite : Obligations.SlotReadAfterWrite := by
  unfold Obligations.SlotReadAfterWrite
  intro q r w h
  refine ⟨?sameSlot, ?otherSlot, ?canonical⟩
  case sameSlot => exact memRead_memWrite_same q w h
  case otherSlot => exact memRead_memWrite_other q r w h
  case canonical => exact memWrite_wf q w h

end Sys2Proof.Machine

/-! The facts the statements of spec/10_state.md need: the operations block by block, what each shared operation leaves
unchanged, and what an operation can do to each block. -/

namespace Sys2Proof

/-- A case split over the operations in which the two queues are one case, and so are the two buttons. -/
theorem Instr.casesByBlock {motive : Instr → Prop}
    (write : ∀ q w, motive (.icfWrite q w)) (trywrite : ∀ q w, motive (.icfTrywrite q w))
    (read : ∀ q, motive (.icfRead q)) (wtick : ∀ q, motive (.icfWtick q)) (rtick : ∀ q, motive (.icfRtick q))
    (cfg : ∀ div top, motive (.pwmCfg div top)) (start : motive .pwmStart) (setduty : ∀ v, motive (.pwmSetduty v))
    (irqen : ∀ b, motive (.pwmIrqen b)) (irqclr : motive .pwmIrqclr) (tick : motive .pwmTick)
    (sample : ∀ j b, motive (.btnSample j b)) (btnRead : ∀ j, motive (.btnRead j))
    (clear : ∀ j, motive (.btnClear j)) (wfi : motive .coreWfi) (csenter : motive .coreCsenter)
    (csexit : ∀ b, motive (.coreCsexit b)) (irqentry : motive .coreIrqentry) (irqret : motive .coreIrqret) :
    ∀ i, motive i
  | .icf0Write w => write .icf0 w
  | .icf0Trywrite w => trywrite .icf0 w
  | .icf0Read => read .icf0
  | .icf0Wtick => wtick .icf0
  | .icf0Rtick => rtick .icf0
  | .icf1Write w => write .icf1 w
  | .icf1Trywrite w => trywrite .icf1 w
  | .icf1Read => read .icf1
  | .icf1Wtick => wtick .icf1
  | .icf1Rtick => rtick .icf1
  | .pwmCfg div top => cfg div top
  | .pwmStart => start
  | .pwmSetduty v => setduty v
  | .pwmIrqen b => irqen b
  | .pwmIrqclr => irqclr
  | .pwmTick => tick
  | .btn0Sample b => sample .btn0 b
  | .btn0Read => btnRead .btn0
  | .btn0Clear => clear .btn0
  | .btn1Sample b => sample .btn1 b
  | .btn1Read => btnRead .btn1
  | .btn1Clear => clear .btn1
  | .coreWfi => wfi
  | .coreCsenter => csenter
  | .coreCsexit b => csexit b
  | .coreIrqentry => irqentry
  | .coreIrqret => irqret

end Sys2Proof

namespace Sys2Proof.Machine

/-! ### The effect of an operation, for either queue and either button -/

@[simp] theorem effect_icfWrite (q : IcfId) (w : Word) (h : Hardware) :
    effect (.icfWrite q w) h = (writeEdge q (some w) h).1 := by cases q <;> rfl
@[simp] theorem effect_icfTrywrite (q : IcfId) (w : Word) (h : Hardware) :
    effect (.icfTrywrite q w) h = (writeEdge q (some w) h).1 := by cases q <;> rfl
@[simp] theorem effect_icfWtick (q : IcfId) (h : Hardware) : effect (.icfWtick q) h = (writeEdge q none h).1 := by
  cases q <;> rfl
@[simp] theorem effect_icfRead (q : IcfId) (h : Hardware) : effect (.icfRead q) h = (readEdge q true h).1 := by
  cases q <;> rfl
@[simp] theorem effect_icfRtick (q : IcfId) (h : Hardware) : effect (.icfRtick q) h = (readEdge q false h).1 := by
  cases q <;> rfl
@[simp] theorem effect_btnSample (j : BtnId) (b : Bool) (h : Hardware) :
    effect (.btnSample j b) h = sampleStep j b h := by cases j <;> rfl
@[simp] theorem effect_btnRead (j : BtnId) (h : Hardware) : effect (.btnRead j) h = h := by cases j <;> rfl
@[simp] theorem effect_btnClear (j : BtnId) (h : Hardware) :
    effect (.btnClear j) h = h.setBtn j { h.btn j with pressed := false } := by cases j <;> rfl

@[simp] theorem isWriteEdge_icfWrite (q : IcfId) (w : Word) : isWriteEdge q (.icfWrite q w) = true := by cases q <;> rfl
@[simp] theorem isWriteEdge_icfTrywrite (q : IcfId) (w : Word) : isWriteEdge q (.icfTrywrite q w) = true := by
  cases q <;> rfl
@[simp] theorem isWriteEdge_icfWtick (q : IcfId) : isWriteEdge q (.icfWtick q) = true := by cases q <;> rfl
@[simp] theorem isReadEdge_icfRead (q : IcfId) : isReadEdge q (.icfRead q) = true := by cases q <;> rfl
@[simp] theorem isReadEdge_icfRtick (q : IcfId) : isReadEdge q (.icfRtick q) = true := by cases q <;> rfl

/-! ### What an update of one block leaves of the others -/

@[simp] theorem withApwm_icf (h : Hardware) (a : Apwm) (q : IcfId) :
    Hardware.icf { h with apwm := a } q = h.icf q := by cases q <;> rfl
@[simp] theorem withApwm_btn (h : Hardware) (a : Apwm) (j : BtnId) :
    Hardware.btn { h with apwm := a } j = h.btn j := by cases j <;> rfl
@[simp] theorem withApwm_memRead (h : Hardware) (a : Apwm) (q : IcfId) :
    memRead q { h with apwm := a } = memRead q h := rfl
@[simp] theorem withCore_icf (h : Hardware) (c : CoreA) (q : IcfId) :
    Hardware.icf { h with core := c } q = h.icf q := by cases q <;> rfl
@[simp] theorem withCore_btn (h : Hardware) (c : CoreA) (j : BtnId) :
    Hardware.btn { h with core := c } j = h.btn j := by cases j <;> rfl
@[simp] theorem withCore_memRead (h : Hardware) (c : CoreA) (q : IcfId) :
    memRead q { h with core := c } = memRead q h := rfl
@[simp] theorem withPlay_btn (h : Hardware) (p : Play) (j : BtnId) :
    Hardware.btn { h with play := p } j = h.btn j := by cases j <;> rfl
@[simp] theorem memWrite_btn (q : IcfId) (w : Word) (h : Hardware) (j : BtnId) : (memWrite q w h).btn j = h.btn j := by
  cases j <;> rfl

/-- A write-side edge touches no block but its queue. -/
@[simp] theorem writeEdge_frame (q : IcfId) (req : Option Word) (h : Hardware) :
    (writeEdge q req h).1.apwm = h.apwm ∧ (∀ j, (writeEdge q req h).1.btn j = h.btn j) ∧
      (writeEdge q req h).1.play = h.play ∧ (writeEdge q req h).1.core = h.core := by
  rcases writeEdge_cases q req h with ⟨_, _, _, e⟩ | ⟨_, e⟩ <;> simp [e]

/-- A read-side edge touches no block but its queue, and never the slot. -/
@[simp] theorem readEdge_frame (q : IcfId) (en : Bool) (h : Hardware) :
    (readEdge q en h).1.apwm = h.apwm ∧ (∀ j, (readEdge q en h).1.btn j = h.btn j) ∧
      (readEdge q en h).1.play = h.play ∧ (readEdge q en h).1.core = h.core ∧ (readEdge q en h).1.mem = h.mem := by
  rcases readEdge_cases q en h with ⟨_, _, e⟩ | ⟨_, e⟩ <;> simp [e]

/-- A write-side edge leaves the other queue, its slot included. -/
theorem writeEdge_other {q r : IcfId} (ne : q ≠ r) (req : Option Word) (h : Hardware) :
    (writeEdge r req h).1.icf q = h.icf q ∧ memRead q (writeEdge r req h).1 = memRead q h := by
  rcases writeEdge_cases r req h with ⟨_, _, _, e⟩ | ⟨_, e⟩ <;>
    simp [e, setIcf_icf_other _ _ _ _ ne, memRead_memWrite_other _ _ _ _ ne]

/-- A read-side edge leaves the other queue. -/
theorem readEdge_other {q r : IcfId} (ne : q ≠ r) (en : Bool) (h : Hardware) :
    (readEdge r en h).1.icf q = h.icf q := by
  rcases readEdge_cases r en h with ⟨_, _, e⟩ | ⟨_, e⟩ <;> simp [e, setIcf_icf_other _ _ _ _ ne]

@[simp] theorem readEdge_memRead (q r : IcfId) (en : Bool) (h : Hardware) :
    memRead q (readEdge r en h).1 = memRead q h := by simp [memRead]

/-- A write-side edge leaves the read pointer and the read-side synchroniser of its queue (R25, R27). -/
@[simp] theorem writeEdge_readSide (q : IcfId) (req : Option Word) (h : Hardware) :
    ((writeEdge q req h).1.icf q).rptr = (h.icf q).rptr ∧ ((writeEdge q req h).1.icf q).rq1 = (h.icf q).rq1 ∧
      ((writeEdge q req h).1.icf q).rq2 = (h.icf q).rq2 := by
  rcases writeEdge_cases q req h with ⟨_, _, _, e⟩ | ⟨_, e⟩ <;> simp [e]

/-- A write-side edge with no request leaves the slot and the write pointer too (R132). -/
@[simp] theorem writeEdge_none (q : IcfId) (h : Hardware) :
    ((writeEdge q none h).1.icf q).wptr = (h.icf q).wptr ∧ memRead q (writeEdge q none h).1 = memRead q h := by
  simp [writeEdge]

/-- A read-side edge leaves the write pointer and the write-side synchroniser of its queue (R24, R26). -/
@[simp] theorem readEdge_writeSide (q : IcfId) (en : Bool) (h : Hardware) :
    ((readEdge q en h).1.icf q).wptr = (h.icf q).wptr ∧ ((readEdge q en h).1.icf q).wq1 = (h.icf q).wq1 ∧
      ((readEdge q en h).1.icf q).wq2 = (h.icf q).wq2 := by
  rcases readEdge_cases q en h with ⟨_, _, e⟩ | ⟨_, e⟩ <;> simp [e]

/-- A read-side edge with no read presented leaves the read pointer too (R136). -/
@[simp] theorem readEdge_false_rptr (q : IcfId) (h : Hardware) :
    ((readEdge q false h).1.icf q).rptr = (h.icf q).rptr := by simp [readEdge]

/-- A sample takes its own detector on, and touches no block but the buttons (R192). -/
@[simp] theorem sampleStep_frame (j : BtnId) (b : Bool) (h : Hardware) :
    (sampleStep j b h).btn j = sampleBtn b (h.btn j) ∧ (sampleStep j b h).mem = h.mem ∧
      (∀ q, (sampleStep j b h).icf q = h.icf q) ∧ (sampleStep j b h).apwm = h.apwm ∧
      (sampleStep j b h).core = h.core := by
  cases j <;> simp [sampleStep, Hardware.setBtn, Hardware.btn, Hardware.icf]

/-- A sample leaves the other detector. -/
theorem sampleStep_btn_other {j k : BtnId} (ne : j ≠ k) (b : Bool) (h : Hardware) :
    (sampleStep k b h).btn j = h.btn j := by
  cases k with
  | btn0 => exact (withPlay_btn _ _ _).trans (setBtn_btn_other _ _ _ _ ne)
  | btn1 => exact setBtn_btn_other _ _ _ _ ne

/-! ### What an operation can do to each block -/

/-- An operation is a write-side edge of queue `q`, a read-side edge of it, or leaves the queue and its slot (R131). -/
theorem effect_icf_cases (i : Instr) (h : Hardware) (q : IcfId) :
    (∃ req, isWriteEdge q i = true ∧ (∀ w, req = some w → i = .icfWrite q w ∨ i = .icfTrywrite q w) ∧
      effect i h = (writeEdge q req h).1) ∨
    (∃ en, isReadEdge q i = true ∧ (en = true → i = .icfRead q) ∧ effect i h = (readEdge q en h).1) ∨
    ((effect i h).icf q = h.icf q ∧ memRead q (effect i h) = memRead q h) := by
  cases i using Instr.casesByBlock with
  | write r w | trywrite r w =>
    by_cases same : q = r
    · subst same; exact .inl ⟨some w, by simp⟩
    · exact .inr (.inr (by simpa using writeEdge_other same (some w) h))
  | wtick r =>
    by_cases same : q = r
    · subst same; exact .inl ⟨none, by simp⟩
    · exact .inr (.inr (by simpa using writeEdge_other same none h))
  | read r =>
    by_cases same : q = r
    · subst same; exact .inr (.inl ⟨true, by simp⟩)
    · exact .inr (.inr (by simpa using readEdge_other same true h))
  | rtick r =>
    by_cases same : q = r
    · subst same; exact .inr (.inl ⟨false, by simp⟩)
    · exact .inr (.inr (by simpa using readEdge_other same false h))
  | sample j b => exact .inr (.inr (by simp [memRead]))
  | btnRead j => exact .inr (.inr (by simp))
  | clear j => exact .inr (.inr (by simp))
  | cfg | start | setduty | irqen | irqret =>
    refine .inr (.inr ?_)
    simp only [effect, returnFromInterrupt]
    split <;> simp
  | irqclr | tick | wfi | csenter | csexit | irqentry => exact .inr (.inr (by simp [effect, takeInterrupt]))

/-- An operation is one of APWM's six, accepted, or leaves APWM (R165 to R169, R171). -/
theorem effect_apwm_cases (i : Instr) (h : Hardware) :
    (∃ div top, i = .pwmCfg div top ∧ h.apwm.pstate = .uninit ∧ top ≠ 0 ∧ div ≠ 0 ∧
      (effect i h).apwm = { h.apwm with top := top, div := div, pstate := .configured }) ∨
    (i = .pwmStart ∧ h.apwm.pstate = .configured ∧
      (effect i h).apwm = { h.apwm with pstate := .running, ctr := 0, pre := 0, ccAct := h.apwm.cc }) ∨
    (∃ v, i = .pwmSetduty v ∧ h.apwm.pstate ≠ .uninit ∧ (effect i h).apwm = { h.apwm with cc := v }) ∨
    (∃ b, i = .pwmIrqen b ∧ h.apwm.pstate ≠ .uninit ∧ (effect i h).apwm = { h.apwm with wrapIe := b }) ∨
    (i = .pwmIrqclr ∧ (effect i h).apwm = { h.apwm with wrapIf := false }) ∨
    (i = .pwmTick ∧ (effect i h).apwm = tick h.apwm) ∨
    (effect i h).apwm = h.apwm := by
  cases i using Instr.casesByBlock with
  | cfg div top =>
    by_cases accepted : h.apwm.pstate = .uninit ∧ top ≠ 0 ∧ div ≠ 0
    · have e : (effect (.pwmCfg div top) h).apwm = { h.apwm with top := top, div := div, pstate := .configured } := by
        simp only [effect, if_pos accepted]
      obtain ⟨uninit, top_ne, div_ne⟩ := accepted
      exact .inl ⟨div, top, rfl, uninit, top_ne, div_ne, e⟩
    · simp only [effect, if_neg accepted, or_true]
  | start =>
    by_cases p : h.apwm.pstate = .configured
    · exact .inr (.inl ⟨rfl, p, by simp only [effect, if_pos p]⟩)
    · simp only [effect, if_neg p, or_true]
  | setduty v =>
    by_cases p : h.apwm.pstate = .uninit
    · simp only [effect, if_pos p, or_true]
    · exact .inr (.inr (.inl ⟨v, rfl, p, by simp only [effect, if_neg p]⟩))
  | irqen b =>
    by_cases p : h.apwm.pstate = .uninit
    · simp only [effect, if_pos p, or_true]
    · exact .inr (.inr (.inr (.inl ⟨b, rfl, p, by simp only [effect, if_neg p]⟩)))
  | irqclr => exact .inr (.inr (.inr (.inr (.inl ⟨rfl, rfl⟩))))
  | tick => exact .inr (.inr (.inr (.inr (.inr (.inl ⟨rfl, rfl⟩)))))
  | irqret => simp only [effect]; split <;> simp
  | wfi | csenter | csexit | irqentry => simp [effect]
  | write | trywrite | read | wtick | rtick | sample | btnRead | clear => simp

/-- An operation samples button `j`, clears its latch, or leaves its detector (R192 to R194). -/
theorem effect_btn_cases (i : Instr) (h : Hardware) (j : BtnId) :
    (∃ b, i = .btnSample j b ∧ (effect i h).btn j = sampleBtn b (h.btn j)) ∨
    (i = .btnClear j ∧ (effect i h).btn j = { h.btn j with pressed := false }) ∨
    (effect i h).btn j = h.btn j := by
  cases i using Instr.casesByBlock with
  | sample k b =>
    by_cases same : j = k
    · subst same; exact .inl ⟨b, by simp⟩
    · exact .inr (.inr (by simpa using sampleStep_btn_other same b h))
  | clear k =>
    by_cases same : j = k
    · subst same; exact .inr (.inl (by simp))
    · exact .inr (.inr (by simpa using setBtn_btn_other _ _ _ _ same))
  | cfg | start | setduty | irqen | irqret =>
    simp only [effect, returnFromInterrupt]
    split <;> simp
  | irqclr | tick | wfi | csenter | csexit | irqentry => simp [effect, takeInterrupt]
  | write | trywrite | read | wtick | rtick | btnRead => simp

/-- An operation toggles `PLAY` at a recognised press of BTN0, or leaves it (R48, R192, R197). -/
theorem effect_play_cases (i : Instr) (h : Hardware) :
    (∃ b, i = .btn0Sample b ∧ edgeNow h.btn0 = true ∧ (effect i h).play = toggle h.play) ∨
    (effect i h).play = h.play := by
  cases i using Instr.casesByBlock with
  | sample k b =>
    cases k with
    | btn0 =>
      cases edge : edgeNow h.btn0 with
      | true => exact .inl ⟨b, rfl, rfl, by simp [sampleStep, edge]⟩
      | false => exact .inr (by simp [sampleStep, edge])
    | btn1 => exact .inr rfl
  | cfg | start | setduty | irqen | irqret =>
    simp only [effect]
    split <;> simp
  | irqclr | tick | wfi | csenter | csexit | irqentry => simp [effect]
  | write | trywrite | read | wtick | rtick | btnRead | clear => simp

/-- An operation is one of CORE's five, or leaves CORE (R211 to R216). -/
theorem effect_core_cases (i : Instr) (h : Hardware) :
    (i = .coreWfi ∧ (effect i h).core = { h.core with waiting := true }) ∨
    (i = .coreCsenter ∧ (effect i h).core = { h.core with imask := true }) ∨
    (∃ b, i = .coreCsexit b ∧ (effect i h).core = { h.core with imask := b }) ∨
    (i = .coreIrqentry ∧ (effect i h).core = { h.core with inh := true }) ∨
    (i = .coreIrqret ∧ (effect i h).core = { h.core with inh := false, waiting := false }) ∨
    (effect i h).core = h.core := by
  cases i using Instr.casesByBlock with
  | wfi => exact .inl ⟨rfl, rfl⟩
  | csenter => exact .inr (.inl ⟨rfl, rfl⟩)
  | csexit b => exact .inr (.inr (.inl ⟨b, rfl, rfl⟩))
  | irqentry => exact .inr (.inr (.inr (.inl ⟨rfl, rfl⟩)))
  | irqret =>
    by_cases running : h.core.inh = true
    · exact .inr (.inr (.inr (.inr (.inl ⟨rfl, by simp only [effect, if_pos running, returnFromInterrupt]⟩))))
    · simp only [effect, if_neg running, or_true]
  | cfg | start | setduty | irqen =>
    simp only [effect]
    split <;> simp
  | irqclr | tick => simp [effect]
  | write | trywrite | read | wtick | rtick | sample | btnRead | clear => simp

/-- An operation stores a word in one slot, or leaves the memory. -/
theorem effect_mem_cases (i : Instr) (h : Hardware) :
    (∃ q w, (effect i h).mem = (memWrite q w h).mem) ∨ (effect i h).mem = h.mem := by
  cases i using Instr.casesByBlock with
  | write q w | trywrite q w =>
    rcases writeEdge_cases q (some w) h with ⟨v, _, _, e⟩ | ⟨_, e⟩
    · exact .inl ⟨q, v, by simp [e, memWrite]⟩
    · exact .inr (by simp [e])
  | wtick q => exact .inr (by simp [writeEdge])
  | cfg | start | setduty | irqen | irqret =>
    simp only [effect, returnFromInterrupt]
    split <;> simp
  | irqclr | tick | wfi | csenter | csexit | irqentry => simp [effect]
  | read | rtick | sample | btnRead | clear => simp

end Sys2Proof.Machine

/-! The invariant of the hardware (R31, R50, R171 (b), R197): each part of it over the operations of its block. -/

namespace Sys2Proof.Machine

/-! ### The flags and the pointer protocol (R28, R30, R31) -/

theorem fullW_eq_false_iff (f : Icf) : fullW f = false ↔ f.wq2 = f.wptr := by
  rw [fullW, bne_eq_false_iff_eq, eq_comm]

theorem emptyR_eq_false_iff (f : Icf) : emptyR f = false ↔ f.rptr ≠ f.rq2 := by simp [emptyR]

theorem occupied_eq_false_iff (f : Icf) : occupied f = false ↔ f.wptr = f.rptr := by simp [occupied]

theorem wrReady_eq_true_iff (f : Icf) : wrReady f = true ↔ fullW f = false := by simp [wrReady]

theorem rdValid_eq_true_iff (f : Icf) : rdValid f = true ↔ emptyR f = false := by simp [rdValid]

/-- The pointer protocol of a free slot: the reader's view is current. -/
theorem icfInv_iff_of_free {f : Icf} (free : f.wptr = f.rptr) :
    icfInv f ↔ f.rq1 = f.wptr ∧ f.rq2 = f.wptr ∧ (f.wq2 = f.wptr → f.wq1 = f.wptr) := by
  rw [icfInv, if_pos free]

/-- The pointer protocol of an occupied slot: the writer's view is current. -/
theorem icfInv_iff_of_occupied {f : Icf} (occ : f.wptr ≠ f.rptr) :
    icfInv f ↔ f.wq1 = f.rptr ∧ f.wq2 = f.rptr ∧ (f.rq2 = f.wptr → f.rq1 = f.wptr) := by
  rw [icfInv, if_neg occ]

/-- R31 (a): the writer never sees an occupied slot as free. -/
theorem free_of_fullW_eq_false {f : Icf} (inv : icfInv f) (ready : fullW f = false) : occupied f = false := by
  rw [fullW_eq_false_iff] at ready
  rw [occupied_eq_false_iff]
  by_contra occ
  obtain ⟨_, current, _⟩ := (icfInv_iff_of_occupied occ).mp inv
  exact occ (ready.symm.trans current)

/-- R31 (b): the reader never sees a free slot as occupied. -/
theorem occupied_of_emptyR_eq_false {f : Icf} (inv : icfInv f) (valid : emptyR f = false) : occupied f = true := by
  rw [emptyR_eq_false_iff] at valid
  rw [← Bool.not_eq_false, occupied_eq_false_iff]
  intro free
  obtain ⟨_, current, _⟩ := (icfInv_iff_of_free free).mp inv
  exact valid (free.symm.trans current.symm)

/-- The write-side synchroniser takes in the read pointer, and the protocol goes on (R31, R132). -/
theorem shiftWriteSync_icfInv {f : Icf} (inv : icfInv f) : icfInv (shiftWriteSync f) := by
  by_cases free : f.wptr = f.rptr
  · obtain ⟨rq1, rq2, _⟩ := (icfInv_iff_of_free free).mp inv
    exact (icfInv_iff_of_free (f := shiftWriteSync f) free).mpr ⟨rq1, rq2, fun _ => free.symm⟩
  · obtain ⟨wq1, _, lag⟩ := (icfInv_iff_of_occupied free).mp inv
    exact (icfInv_iff_of_occupied (f := shiftWriteSync f) free).mpr ⟨rfl, wq1, lag⟩

/-- The read-side synchroniser takes in the write pointer, and the protocol goes on (R31, R136). -/
theorem shiftReadSync_icfInv {f : Icf} (inv : icfInv f) : icfInv (shiftReadSync f) := by
  by_cases free : f.wptr = f.rptr
  · obtain ⟨rq1, _, lag⟩ := (icfInv_iff_of_free free).mp inv
    exact (icfInv_iff_of_free (f := shiftReadSync f) free).mpr ⟨rfl, rq1, lag⟩
  · obtain ⟨wq1, wq2, _⟩ := (icfInv_iff_of_occupied free).mp inv
    exact (icfInv_iff_of_occupied (f := shiftReadSync f) free).mpr ⟨wq1, wq2, fun _ => rfl⟩

/-- An accepted write occupies a free slot; the writer's view of the reader is current then, and the reader's view is the
old write pointer (R31, R133). -/
theorem acceptedWrite_icfInv {f : Icf} (inv : icfInv f) (ready : fullW f = false) :
    icfInv { shiftWriteSync f with wptr := f.wptr ^^^ 1 } := by
  have free := (occupied_eq_false_iff f).mp (free_of_fullW_eq_false inv ready)
  obtain ⟨_, rq2, current⟩ := (icfInv_iff_of_free free).mp inv
  have wq1 : f.wq1 = f.wptr := current ((fullW_eq_false_iff f).mp ready)
  refine (icfInv_iff_of_occupied ?occ).mpr ⟨rfl, wq1.trans free, fun stale => ?absurd⟩
  case occ => exact fun e => ptr_toggle_ne f.wptr (e.trans free.symm)
  case absurd => exact absurd (stale.symm.trans rq2) (ptr_toggle_ne f.wptr)

/-- A delivered read frees an occupied slot; the reader's view of the writer is current then, and the writer's view is the
old read pointer (R31, R135). -/
theorem deliveredRead_icfInv {f : Icf} (inv : icfInv f) (valid : emptyR f = false) :
    icfInv { shiftReadSync f with rptr := f.rptr ^^^ 1 } := by
  have occ : f.wptr ≠ f.rptr := by
    simpa [occupied] using occupied_of_emptyR_eq_false inv valid
  have wptr : f.wptr = f.rptr ^^^ 1 := ptr_eq_toggle occ
  obtain ⟨_, wq2, current⟩ := (icfInv_iff_of_occupied occ).mp inv
  have rq2 : f.rq2 = f.wptr := (ptr_eq_toggle (((emptyR_eq_false_iff f).mp valid).symm)).trans wptr.symm
  refine (icfInv_iff_of_free wptr).mpr ⟨rfl, current rq2, fun stale => ?absurd⟩
  exact absurd (stale.symm.trans wq2) occ

/-! ### Each part of the invariant, over one operation -/

/-- Every operation keeps the pointer protocol of every queue (R31). -/
theorem effect_icfInv (i : Instr) {h : Hardware} {q : IcfId} (inv : icfInv (h.icf q)) :
    icfInv ((effect i h).icf q) := by
  rcases effect_icf_cases i h q with ⟨req, _, _, e⟩ | ⟨en, _, _, e⟩ | ⟨same, _⟩
  · rw [e]
    rcases writeEdge_cases q req h with ⟨w, _, ready, e⟩ | ⟨_, e⟩
    · simpa [e] using acceptedWrite_icfInv inv ((wrReady_eq_true_iff _).mp ready)
    · simpa [e] using shiftWriteSync_icfInv inv
  · rw [e]
    rcases readEdge_cases q en h with ⟨_, valid, e⟩ | ⟨_, e⟩
    · simpa [e] using deliveredRead_icfInv inv ((rdValid_eq_true_iff _).mp valid)
    · simpa [e] using shiftReadSync_icfInv inv
  · rwa [same]

/-- Every operation leaves an occupied slot written (R31, R273): an accepted write has written it, and a delivered read
found it occupied. -/
theorem effect_slotInv (i : Instr) {h : Hardware} {q : IcfId} (inv : icfInv (h.icf q)) (written : slotInv q h) :
    slotInv q (effect i h) := by
  unfold slotInv
  rcases effect_icf_cases i h q with ⟨req, _, _, e⟩ | ⟨en, _, _, e⟩ | ⟨same, mem⟩
  · rw [e]
    rcases writeEdge_cases q req h with ⟨w, _, _, e⟩ | ⟨_, e⟩
    · simp [e]
    · simpa [slotInv, e, occupied] using written
  · rw [e, readEdge_memRead]
    rcases readEdge_cases q en h with ⟨_, valid, _⟩ | ⟨_, e⟩
    · exact fun _ => written (occupied_of_emptyR_eq_false inv ((rdValid_eq_true_iff _).mp valid))
    · simpa [slotInv, e, occupied] using written
  · rwa [same, mem]

/-- Every operation keeps the canonical form of the memory. -/
theorem effect_mem_wf (i : Instr) {h : Hardware} (wf : Memory.wf h.mem = true) : Memory.wf (effect i h).mem = true := by
  rcases effect_mem_cases i h with ⟨q, w, e⟩ | e
  · rw [e]; exact memWrite_wf q w h wf
  · rwa [e]

/-- A non-zero operand is a positive number, so a period begun at 0 has a first count (R165). -/
theorem toNat_pos_of_ne_zero {r : Reg} (ne : r ≠ 0) : (0 : Reg).toNat < r.toNat := by
  bv_omega

/-- A counter below its bound that is not at the last value counts up below the bound (R171 (b)). -/
theorem count_lt_of_ne_last {c bound : Reg} (lt : c.toNat < bound.toNat) (ne : c ≠ bound - 1) :
    (c + 1).toNat < bound.toNat := by
  bv_omega

/-- A tick keeps the counters inside the period (R171 (b)), and outside `RUNNING` it changes nothing. -/
theorem tick_apwmInv {a : Apwm} (inv : apwmInv a) : apwmInv (tick a) := by
  rcases tick_cases a with ⟨_, e⟩ | ⟨run, _, _, e⟩ | ⟨run, _, notLast, e⟩ | ⟨run, notLast, e⟩
  · rwa [e]
  all_goals
    simp only [apwmInv, run] at inv
    obtain ⟨ctr, pre⟩ := inv
    simp only [e, apwmInv, run]
  · exact ⟨by simpa using Nat.zero_lt_of_lt ctr, by simpa using Nat.zero_lt_of_lt pre⟩
  · exact ⟨count_lt_of_ne_last ctr notLast, by simpa using Nat.zero_lt_of_lt pre⟩
  · exact ⟨ctr, count_lt_of_ne_last pre notLast⟩

/-- Outside `UNINIT` the invariant does not restrict `CC` and `WRAP_IE` (R35, R40). -/
theorem apwmInv_with_cc_wrapIe {a : Apwm} (v : Reg) (b : Bool) (notUninit : a.pstate ≠ .uninit) (inv : apwmInv a) :
    apwmInv { a with cc := v, wrapIe := b } := by
  cases p : a.pstate with
  | uninit => exact absurd p notUninit
  | configured | running => simpa only [apwmInv, p] using inv

/-- Every operation keeps the state of APWM inside its bounds (R161, R165, R166, R171 (b)). -/
theorem effect_apwmInv (i : Instr) {h : Hardware} (inv : apwmInv h.apwm) : apwmInv (effect i h).apwm := by
  rcases effect_apwm_cases i h with ⟨div, top, _, uninit, top_ne, div_ne, e⟩ | ⟨_, configured, e⟩ |
    ⟨v, _, notUninit, e⟩ | ⟨b, _, notUninit, e⟩ | ⟨_, e⟩ | ⟨_, e⟩ | e
  all_goals rw [e]
  · have rest : h.apwm = Apwm.reset := by simpa only [apwmInv, uninit] using inv
    simp only [apwmInv, rest]
    exact ⟨top_ne, div_ne, rfl, rfl, rfl, rfl⟩
  · simp only [apwmInv, configured] at inv ⊢
    obtain ⟨top_ne, div_ne, _⟩ := inv
    exact ⟨toNat_pos_of_ne_zero top_ne, toNat_pos_of_ne_zero div_ne⟩
  · exact apwmInv_with_cc_wrapIe v h.apwm.wrapIe notUninit inv
  · exact apwmInv_with_cc_wrapIe h.apwm.cc b notUninit inv
  · cases p : h.apwm.pstate with
    | uninit =>
      have rest : h.apwm = Apwm.reset := by simpa only [apwmInv, p] using inv
      rw [rest]; rfl
    | configured =>
      simp only [apwmInv, p] at inv ⊢
      obtain ⟨top_ne, div_ne, ccAct, ctr, pre, _⟩ := inv
      exact ⟨top_ne, div_ne, ccAct, ctr, pre, trivial⟩
    | running => simpa only [apwmInv, p] using inv
  · exact tick_apwmInv inv
  · exact inv

/-- Every operation keeps `LEVEL` and `WAS_DOWN` in agreement (R50): a sample writes both with one value. -/
theorem effect_btnInv (i : Instr) {h : Hardware} {j : BtnId} (inv : btnInv (h.btn j)) : btnInv ((effect i h).btn j) := by
  rcases effect_btn_cases i h j with ⟨b, _, e⟩ | ⟨_, e⟩ | e
  · rw [e]; rfl
  · rwa [e]
  · rwa [e]

/-- `toggle` makes no `Idle` (R197). -/
theorem toggle_ne_idle {p : Play} (ne : p ≠ .idle) : toggle p ≠ .idle := by
  cases p with
  | idle => exact absurd rfl ne
  | playing | paused => decide

/-- No operation makes `PLAY` `Idle` (R197). -/
theorem effect_play_ne_idle (i : Instr) {h : Hardware} (ne : h.play ≠ .idle) : (effect i h).play ≠ .idle := by
  rcases effect_play_cases i h with ⟨b, _, _, e⟩ | e
  · rw [e]; exact toggle_ne_idle ne
  · rwa [e]

/-! ### The whole invariant -/

/-- Every operation keeps the invariant of the hardware. -/
theorem effect_hwInv (i : Instr) {h : Hardware} (inv : HwInv h) : HwInv (effect i h) where
  mem := effect_mem_wf i inv.mem
  icf0 := effect_icfInv i (q := .icf0) inv.icf0
  icf1 := effect_icfInv i (q := .icf1) inv.icf1
  slot0 := effect_slotInv i inv.icf0 inv.slot0
  slot1 := effect_slotInv i inv.icf1 inv.slot1
  apwm := effect_apwmInv i inv.apwm
  btn0 := effect_btnInv i (j := .btn0) inv.btn0
  btn1 := effect_btnInv i (j := .btn1) inv.btn1
  play := effect_play_ne_idle i inv.play

/-- The reset values have the invariant: the slots are free and unwritten, APWM and the buttons are at rest (R58). -/
theorem reset_hwInv : HwInv Hardware.reset where
  mem := reset_mem_wf
  icf0 := (icfInv_iff_of_free rfl).mpr ⟨rfl, rfl, fun _ => rfl⟩
  icf1 := (icfInv_iff_of_free rfl).mpr ⟨rfl, rfl, fun _ => rfl⟩
  slot0 := fun occ => absurd occ (by decide)
  slot1 := fun occ => absurd occ (by decide)
  apwm := rfl
  btn0 := rfl
  btn1 := rfl
  play := by decide

/-- Every input that answers a next state keeps the invariant: the reset makes it, an operation keeps it. -/
theorem applyInput_hwInv {x : Input} {s t : State} (inv : HwInv s.toHardware) (e : applyInput x s = .next t) :
    HwInv t.toHardware := by
  rcases applyInput_next e with ⟨_, rfl⟩ | ⟨a, cw, i, _, _, _, run⟩
  · exact reset_hwInv
  · rw [exec_hardware run]; exact effect_hwInv i inv

/-- Taking an input, a listed or a free one, touches no hardware (log 1). -/
theorem takeInput_hardware (s : State) : (takeInput s).2.toHardware = s.toHardware := by
  unfold takeInput
  split <;> rfl

/-- Settles O59: a step takes an input, which leaves the hardware, and applies it, which keeps the invariant. -/
theorem stepKeepsInvariant : Obligations.StepKeepsInvariant := by
  unfold Obligations.StepKeepsInvariant
  intro s t inv e
  have taken : HwInv (takeInput s).2.toHardware := by rwa [takeInput_hardware]
  exact applyInput_hwInv taken e

/-- Settles O60: the initial state is at the reset values. -/
theorem resetHasInvariant : Obligations.ResetHasInvariant := by
  unfold Obligations.ResetHasInvariant
  exact reset_hwInv

end Sys2Proof.Machine

/-! Who writes what (R21, R24 to R27, R32 to R40, R44 to R48, R51 to R53), element by element. -/

namespace Sys2Proof.Machine

/-! ### The queues -/

/-- The slot and the write pointer of a queue are kept, unless the operation is a write of that queue (R24, R70). -/
theorem effect_writeRequest (i : Instr) (h : Hardware) (q : IcfId) :
    (∃ w, i = .icfWrite q w ∨ i = .icfTrywrite q w) ∨
    (memRead q (effect i h) = memRead q h ∧ ((effect i h).icf q).wptr = (h.icf q).wptr) := by
  rcases effect_icf_cases i h q with ⟨req, _, request, e⟩ | ⟨en, _, _, e⟩ | ⟨same, mem⟩
  · cases req with
    | none => exact .inr (by simp [e])
    | some w => exact .inl ⟨w, request w rfl⟩
  · exact .inr (by simp [e])
  · exact .inr ⟨mem, by rw [same]⟩

/-- The read pointer of a queue is kept, unless the operation is a read of that queue (R25). -/
theorem effect_rptr (i : Instr) (h : Hardware) (q : IcfId) :
    i = .icfRead q ∨ ((effect i h).icf q).rptr = (h.icf q).rptr := by
  rcases effect_icf_cases i h q with ⟨req, _, _, e⟩ | ⟨en, _, request, e⟩ | ⟨same, _⟩
  · exact .inr (by simp [e])
  · cases en with
    | false => exact .inr (by simp [e])
    | true => exact .inl (request rfl)
  · exact .inr (by rw [same])

/-- The write-side synchroniser is kept, unless the operation is a write-side edge of its queue (R26). -/
theorem effect_writeSync (i : Instr) (h : Hardware) (q : IcfId) :
    isWriteEdge q i = true ∨
    (((effect i h).icf q).wq1 = (h.icf q).wq1 ∧ ((effect i h).icf q).wq2 = (h.icf q).wq2) := by
  rcases effect_icf_cases i h q with ⟨req, edge, _, _⟩ | ⟨en, _, _, e⟩ | ⟨same, _⟩
  · exact .inl edge
  · exact .inr (by simp [e])
  · exact .inr (by simp [same])

/-- The read-side synchroniser is kept, unless the operation is a read-side edge of its queue (R27). -/
theorem effect_readSync (i : Instr) (h : Hardware) (q : IcfId) :
    isReadEdge q i = true ∨
    (((effect i h).icf q).rq1 = (h.icf q).rq1 ∧ ((effect i h).icf q).rq2 = (h.icf q).rq2) := by
  rcases effect_icf_cases i h q with ⟨req, _, _, e⟩ | ⟨en, edge, _, _⟩ | ⟨same, _⟩
  · exact .inr (by simp [e])
  · exact .inl edge
  · exact .inr (by simp [same])

/-! ### APWM -/

theorem atWrap_eq_true_iff (a : Apwm) : atWrap a = true ↔ a.pre = a.div - 1 ∧ a.ctr = a.top - 1 := by
  simp [atWrap]

/-- A tick leaves the state, the configuration, the compare value software wrote and the mask (R32 to R35, R40). -/
@[simp] theorem tick_frame (a : Apwm) :
    (tick a).pstate = a.pstate ∧ (tick a).top = a.top ∧ (tick a).div = a.div ∧ (tick a).cc = a.cc ∧
      (tick a).wrapIe = a.wrapIe := by
  rcases tick_cases a with ⟨_, e⟩ | ⟨_, _, _, e⟩ | ⟨_, _, _, e⟩ | ⟨_, _, e⟩ <;> simp [e]

/-- Only a tick at the wrap transfers the compare value and raises the flag (R36, R39, R171). -/
theorem tick_wrap (a : Apwm) : atWrap a = true ∨ ((tick a).ccAct = a.ccAct ∧ (tick a).wrapIf = a.wrapIf) := by
  rcases tick_cases a with ⟨_, e⟩ | ⟨_, pre, ctr, _⟩ | ⟨_, _, _, e⟩ | ⟨_, _, e⟩
  · exact .inr (by simp [e])
  · exact .inl ((atWrap_eq_true_iff a).mpr ⟨pre, ctr⟩)
  · exact .inr (by simp [e])
  · exact .inr (by simp [e])

/-- Who writes each register of APWM (R32 to R40). -/
theorem effect_apwm_writers (i : Instr) (h : Hardware) :
    ((effect i h).apwm.pstate ≠ h.apwm.pstate → (∃ d p, i = .pwmCfg d p) ∨ i = .pwmStart) ∧
    ((effect i h).apwm.top ≠ h.apwm.top ∨ (effect i h).apwm.div ≠ h.apwm.div → ∃ d p, i = .pwmCfg d p) ∧
    ((effect i h).apwm.cc ≠ h.apwm.cc → ∃ v, i = .pwmSetduty v) ∧
    ((effect i h).apwm.ccAct ≠ h.apwm.ccAct → i = .pwmStart ∨ (i = .pwmTick ∧ atWrap h.apwm = true)) ∧
    ((effect i h).apwm.ctr ≠ h.apwm.ctr ∨ (effect i h).apwm.pre ≠ h.apwm.pre → i = .pwmStart ∨ i = .pwmTick) ∧
    ((effect i h).apwm.wrapIf ≠ h.apwm.wrapIf → i = .pwmIrqclr ∨ (i = .pwmTick ∧ atWrap h.apwm = true)) ∧
    ((effect i h).apwm.wrapIe ≠ h.apwm.wrapIe → ∃ b, i = .pwmIrqen b) := by
  rcases effect_apwm_cases i h with ⟨div, top, rfl, _, _, _, e⟩ | ⟨rfl, _, e⟩ | ⟨v, rfl, _, e⟩ | ⟨b, rfl, _, e⟩ |
    ⟨rfl, e⟩ | ⟨rfl, e⟩ | e
  · simp [e]
  · simp [e]
  · simp [e]
  · simp [e]
  · simp [e]
  · rcases tick_wrap h.apwm with wrap | ⟨ccAct, wrapIf⟩
    · simp [e, wrap]
    · simp [e, ccAct, wrapIf]
  · simp [e]

/-! ### The buttons, `PLAY` and CORE -/

/-- A sample leaves the latch, unless it recognises a press (R47, R192). -/
theorem sampleBtn_pressed (bit : Bool) {b : Btn} (noEdge : edgeNow b = false) :
    (sampleBtn bit b).pressed = b.pressed := by
  simp [sampleBtn, noEdge]

/-- Who writes each flop of a button (R44 to R47). -/
theorem effect_btn_writers (i : Instr) (h : Hardware) (j : BtnId) :
    (((effect i h).btn j).s1 ≠ (h.btn j).s1 ∨ ((effect i h).btn j).s2 ≠ (h.btn j).s2 ∨
        ((effect i h).btn j).level ≠ (h.btn j).level ∨ ((effect i h).btn j).wasDown ≠ (h.btn j).wasDown →
      ∃ b, i = .btnSample j b) ∧
    (((effect i h).btn j).pressed ≠ (h.btn j).pressed →
      ((∃ b, i = .btnSample j b) ∧ edgeNow (h.btn j) = true) ∨ i = .btnClear j) := by
  rcases effect_btn_cases i h j with ⟨b, rfl, e⟩ | ⟨rfl, e⟩ | e
  · refine ⟨fun _ => ⟨b, rfl⟩, fun changed => .inl ⟨⟨b, rfl⟩, ?_⟩⟩
    by_contra noEdge
    exact changed (by rw [e, sampleBtn_pressed b (Bool.eq_false_of_not_eq_true noEdge)])
  · exact ⟨by simp, fun _ => .inr rfl⟩
  · simp [e]

/-- `PLAY` changes only where a sample of BTN0 recognises a press (R48). -/
theorem effect_play_writers (i : Instr) (h : Hardware) (changed : (effect i h).play ≠ h.play) :
    (∃ b, i = .btn0Sample b) ∧ edgeNow h.btn0 = true := by
  rcases effect_play_cases i h with ⟨b, rfl, edge, _⟩ | e
  · exact ⟨⟨b, rfl⟩, edge⟩
  · exact absurd e changed

/-- Who writes each bit of CORE (R51 to R53). -/
theorem effect_core_writers (i : Instr) (h : Hardware) :
    ((effect i h).core.imask ≠ h.core.imask → i = .coreCsenter ∨ ∃ b, i = .coreCsexit b) ∧
    ((effect i h).core.inh ≠ h.core.inh → i = .coreIrqentry ∨ i = .coreIrqret) ∧
    ((effect i h).core.waiting ≠ h.core.waiting → i = .coreWfi ∨ i = .coreIrqret) := by
  rcases effect_core_cases i h with ⟨rfl, e⟩ | ⟨rfl, e⟩ | ⟨b, rfl, e⟩ | ⟨rfl, e⟩ | ⟨rfl, e⟩ | e <;> simp [e]

/-- Settles O55: an operation leaves the hardware `effect` says, and each clause is what `effect` can do to one element. -/
theorem onlyNamedOperationsWrite : Obligations.OnlyNamedOperationsWrite := by
  unfold Obligations.OnlyNamedOperationsWrite
  intro i s t e
  rw [exec_hardware e]
  obtain ⟨pstate, topDiv, cc, ccAct, counters, wrapIf, wrapIe⟩ := effect_apwm_writers i s.toHardware
  obtain ⟨imask, inh, waiting⟩ := effect_core_writers i s.toHardware
  refine ⟨?slot, ?wptr, ?rptr, ?writeSync, ?readSync, pstate, topDiv, cc, ccAct, counters, wrapIf, wrapIe, ?detector,
    ?pressed, effect_play_writers i s.toHardware, imask, inh, waiting⟩
  case slot =>
    intro q changed
    exact (effect_writeRequest i s.toHardware q).resolve_right fun ⟨same, _⟩ => changed same
  case wptr =>
    intro q changed
    exact (effect_writeRequest i s.toHardware q).resolve_right fun ⟨_, same⟩ => changed same
  case rptr =>
    intro q changed
    exact (effect_rptr i s.toHardware q).resolve_right changed
  case writeSync =>
    intro q changed
    exact (effect_writeSync i s.toHardware q).resolve_right fun ⟨wq1, wq2⟩ => changed.elim (· wq1) (· wq2)
  case readSync =>
    intro q changed
    exact (effect_readSync i s.toHardware q).resolve_right fun ⟨rq1, rq2⟩ => changed.elim (· rq1) (· rq2)
  case detector =>
    intro j
    obtain ⟨detector, _⟩ := effect_btn_writers i s.toHardware j
    exact detector
  case pressed =>
    intro j
    obtain ⟨_, pressed⟩ := effect_btn_writers i s.toHardware j
    exact pressed

end Sys2Proof.Machine

/-! The reset values (R58), and the stale flags in states that runs from reset reach (R31 (c)). -/

namespace Sys2Proof.Machine

/-- The reset puts every queue, its slot and every button at the reset values (R24 to R27, R44 to R47); no slot
has a value (R23). -/
theorem reset_queues_buttons :
    (∀ q, memRead q Hardware.reset = none) ∧ (∀ q, Hardware.reset.icf q = Icf.reset) ∧
      ∀ j, Hardware.reset.btn j = Btn.reset := by
  refine ⟨fun q => ?slot, fun q => ?icf, fun j => ?btn⟩
  case slot => cases q <;> rfl
  case icf => cases q <;> rfl
  case btn => cases j <;> rfl

/-- Settles O10: the `RESET` step leaves the hardware of `Hardware.reset`, whatever it finds. -/
theorem resetGivesResetValues : Obligations.ResetGivesResetValues := by
  unfold Obligations.ResetGivesResetValues
  intro s
  obtain ⟨slot, icf, btn⟩ := reset_queues_buttons
  refine ⟨resetStep s, rfl, ?_⟩
  rw [resetStep_hardware]
  refine ⟨slot, icf, fun q => ?flags, rfl, btn, rfl, rfl⟩
  case flags =>
    rw [icf q]
    decide

/-- A write into ICF0, of which no edge of the reader has heard. -/
def unseenWrite : List Input := [line .prod (.icf0Write 7)]

/-- A write into ICF0 that the reader hears of and reads, of which no edge of the writer has heard. -/
def unseenRead : List Input :=
  unseenWrite ++ [line (.rclk .icf0) .icf0Rtick, line (.rclk .icf0) .icf0Rtick, line .cons .icf0Read]

/-- After the unseen read the slot is free and still shows as full. -/
theorem unseenRead_fullW :
    ∃ t, runInputs unseenRead State.reset = .next t ∧ occupied t.icf0 = false ∧ fullW t.icf0 = true :=
  ⟨_, rfl, by decide, by decide⟩

/-- After the unseen write the slot is occupied and still shows as empty. -/
theorem unseenWrite_emptyR :
    ∃ t, runInputs unseenWrite State.reset = .next t ∧ occupied t.icf0 = true ∧ emptyR t.icf0 = true :=
  ⟨_, rfl, by decide, by decide⟩

/-- Settles O20: a clear flag is right by the pointer protocol, and two runs from reset leave a set flag stale. -/
theorem flagsStaleInSafeDirection : Obligations.FlagsStaleInSafeDirection := by
  unfold Obligations.FlagsStaleInSafeDirection
  refine ⟨fun f inv => ⟨?full, ?empty⟩, ⟨unseenRead, unseenRead_fullW⟩, ⟨unseenWrite, unseenWrite_emptyR⟩⟩
  case full => exact free_of_fullW_eq_false inv
  case empty => exact occupied_of_emptyR_eq_false inv

end Sys2Proof.Machine

/-! The statements of spec/20_memory.md: what one operation does to a queue and what it shows (R131 to R136), runs of
operations, and along them the order of the words, the age of a stale flag and the closed mask. -/

namespace Sys2Proof.Machine

/-! ### Which operations are edges of a queue (R131) -/

theorem isWriteEdge_iff (q : IcfId) (i : Instr) :
    isWriteEdge q i = true ↔ (∃ w, i = .icfWrite q w) ∨ (∃ w, i = .icfTrywrite q w) ∨ i = .icfWtick q := by
  cases q <;> cases i <;> simp [isWriteEdge, Instr.icfWrite, Instr.icfTrywrite, Instr.icfWtick]

theorem isReadEdge_iff (q : IcfId) (i : Instr) :
    isReadEdge q i = true ↔ i = .icfRead q ∨ i = .icfRtick q := by
  cases q <;> cases i <;> simp [isReadEdge, Instr.icfRead, Instr.icfRtick]

/-- No operation is an edge of both sides of a queue. -/
theorem isReadEdge_of_isWriteEdge {q : IcfId} {i : Instr} (edge : isWriteEdge q i = true) : isReadEdge q i = false := by
  rcases (isWriteEdge_iff q i).mp edge with ⟨w, rfl⟩ | ⟨w, rfl⟩ | rfl <;> cases q <;> rfl

/-- Only a write-side edge of a queue puts a word into it. -/
theorem acceptedWord_of_not_writeEdge {q : IcfId} {i : Instr} (r : Result) (noEdge : isWriteEdge q i = false) :
    acceptedWord q i r = [] := by
  unfold acceptedWord
  split <;> simp_all [isWriteEdge]

/-- Only a read-side edge of a queue takes a word out of it. -/
theorem deliveredWord_of_not_readEdge {q : IcfId} {i : Instr} (r : Result) (noEdge : isReadEdge q i = false) :
    deliveredWord q i r = [] := by
  unfold deliveredWord
  split <;> simp_all [isReadEdge]

/-! ### The meaning of an edge, for either queue -/

theorem exec_icfWrite (q : IcfId) (w : Word) (s : State) :
    exec (.icfWrite q w) s = blockingWrite q w (.icfWrite q w) s := by cases q <;> rfl
theorem exec_icfTrywrite (q : IcfId) (w : Word) (s : State) :
    exec (.icfTrywrite q w) s = probingWrite q w (.icfTrywrite q w) s := by cases q <;> rfl
theorem exec_icfWtick (q : IcfId) (s : State) : exec (.icfWtick q) s = wtickEdge q (.icfWtick q) s := by cases q <;> rfl
theorem exec_icfRead (q : IcfId) (s : State) : exec (.icfRead q) s = blockingRead q (.icfRead q) s := by cases q <;> rfl
theorem exec_icfRtick (q : IcfId) (s : State) : exec (.icfRtick q) s = rtickEdge q (.icfRtick q) s := by cases q <;> rfl

theorem acceptedWord_icfWrite (q : IcfId) (w : Word) (took : Bool) :
    acceptedWord q (.icfWrite q w) (if took then .done else .hold) = if took then [w] else [] := by
  cases q <;> cases took <;> rfl
theorem acceptedWord_icfTrywrite (q : IcfId) (w : Word) (took : Bool) :
    acceptedWord q (.icfTrywrite q w) (.doneBit (BitVec.ofBool took)) = if took then [w] else [] := by
  cases q <;> cases took <;> rfl
theorem acceptedWord_icfWtick (q : IcfId) (r : Result) : acceptedWord q (.icfWtick q) r = [] := by cases q <;> rfl
theorem deliveredWord_icfRead (q : IcfId) (word : Option Word) :
    deliveredWord q (.icfRead q) (readResult word) = word.toList := by
  cases q <;> cases word <;> rfl
theorem deliveredWord_icfRtick (q : IcfId) (r : Result) : deliveredWord q (.icfRtick q) r = [] := by cases q <;> rfl

/-- The result an agent is given is the last result it was given. -/
@[simp] theorem results_of_give (r : Results) (a : Agent) (v : Result) : (r.give a v).of a = v := by cases a <;> rfl

/-- An operation that concludes leaves its hardware, and shows its result. -/
theorem conclude_shows {s t : State} {h : Hardware} {rs : List Report} {v : Result} (e : conclude s h rs v = .next t) :
    t.toHardware = h ∧ t.results.of t.issuer = v := by
  rw [conclude_next e]
  exact ⟨rfl, results_of_give _ _ _⟩

/-- A write-side edge, whatever its operation: it leaves what `writeEdge` leaves, and accepts the word that transfers
(R131 to R134). -/
theorem exec_writeEdge {q : IcfId} {i : Instr} {s t : State} (edge : isWriteEdge q i = true) (e : exec i s = .next t) :
    ∃ req, t.toHardware = (writeEdge q req s.toHardware).1 ∧
      acceptedWord q i (t.results.of t.issuer) = if (writeEdge q req s.toHardware).2 then req.toList else [] := by
  rcases (isWriteEdge_iff q i).mp edge with ⟨w, rfl⟩ | ⟨w, rfl⟩ | rfl
  · rw [exec_icfWrite] at e
    obtain ⟨hardware, result⟩ := conclude_shows e
    exact ⟨some w, hardware, by rw [result, acceptedWord_icfWrite]; rfl⟩
  · rw [exec_icfTrywrite] at e
    obtain ⟨hardware, result⟩ := conclude_shows e
    exact ⟨some w, hardware, by rw [result, acceptedWord_icfTrywrite]; rfl⟩
  · rw [exec_icfWtick] at e
    obtain ⟨hardware, _⟩ := conclude_shows e
    exact ⟨none, hardware, acceptedWord_icfWtick q _⟩

/-- A read-side edge, whatever its operation: it leaves what `readEdge` leaves, and delivers the word that transfers
(R131, R135, R136). -/
theorem exec_readEdge {q : IcfId} {i : Instr} {s t : State} (edge : isReadEdge q i = true) (e : exec i s = .next t) :
    ∃ en, t.toHardware = (readEdge q en s.toHardware).1 ∧
      deliveredWord q i (t.results.of t.issuer) = (readEdge q en s.toHardware).2.toList := by
  rcases (isReadEdge_iff q i).mp edge with rfl | rfl
  · rw [exec_icfRead] at e
    obtain ⟨hardware, result⟩ := conclude_shows e
    exact ⟨true, hardware, by rw [result, deliveredWord_icfRead]⟩
  · rw [exec_icfRtick] at e
    obtain ⟨hardware, _⟩ := conclude_shows e
    exact ⟨false, hardware, deliveredWord_icfRtick q _⟩

/-! ### What one operation does to a queue and what it shows -/

/-- Operation `i` takes queue `q` from `h` to `h'`, puts the words `acc` into it and takes the words `del` out of it. -/
inductive QueueStep (q : IcfId) (i : Instr) (h h' : Hardware) (acc del : List Word) : Prop
  /-- A write-side edge that transfers its word. -/
  | accept (w : Word) (writeSide : isWriteEdge q i = true) (readSide : isReadEdge q i = false)
      (ready : wrReady (h.icf q) = true)
      (icf : h'.icf q = { shiftWriteSync (h.icf q) with wptr := (h.icf q).wptr ^^^ 1 }) (slot : memRead q h' = some w)
      (acc_eq : acc = [w]) (del_eq : del = [])
  /-- A write-side edge with no transfer. -/
  | writeShift (writeSide : isWriteEdge q i = true) (readSide : isReadEdge q i = false)
      (icf : h'.icf q = shiftWriteSync (h.icf q)) (slot : memRead q h' = memRead q h)
      (acc_eq : acc = []) (del_eq : del = [])
  /-- A read-side edge that transfers the word in the slot. -/
  | deliver (writeSide : isWriteEdge q i = false) (readSide : isReadEdge q i = true) (valid : rdValid (h.icf q) = true)
      (icf : h'.icf q = { shiftReadSync (h.icf q) with rptr := (h.icf q).rptr ^^^ 1 })
      (acc_eq : acc = []) (del_eq : del = [slotWord q h])
  /-- A read-side edge with no transfer. -/
  | readShift (writeSide : isWriteEdge q i = false) (readSide : isReadEdge q i = true)
      (icf : h'.icf q = shiftReadSync (h.icf q)) (slot : memRead q h' = memRead q h)
      (acc_eq : acc = []) (del_eq : del = [])
  /-- No edge of the queue. -/
  | other (writeSide : isWriteEdge q i = false) (readSide : isReadEdge q i = false)
      (icf : h'.icf q = h.icf q) (slot : memRead q h' = memRead q h) (acc_eq : acc = []) (del_eq : del = [])

/-- Every operation that answers a next state does one of these to each queue. -/
theorem exec_queueStep (q : IcfId) {i : Instr} {s t : State} (e : exec i s = .next t) :
    QueueStep q i s.toHardware t.toHardware (acceptedWord q i (t.results.of t.issuer))
      (deliveredWord q i (t.results.of t.issuer)) := by
  cases writeSide : isWriteEdge q i with
  | true =>
    have readSide := isReadEdge_of_isWriteEdge writeSide
    have del := deliveredWord_of_not_readEdge (t.results.of t.issuer) readSide
    obtain ⟨req, hardware, acc⟩ := exec_writeEdge writeSide e
    rcases writeEdge_cases q req s.toHardware with ⟨w, rfl, ready, edge⟩ | ⟨_, edge⟩
    · exact .accept w writeSide readSide ready (by simp [hardware, edge]) (by simp [hardware, edge])
        (by simp [acc, edge]) del
    · exact .writeShift writeSide readSide (by simp [hardware, edge]) (by simp [hardware, edge]) (by simp [acc, edge]) del
  | false =>
    have acc := acceptedWord_of_not_writeEdge (t.results.of t.issuer) writeSide
    cases readSide : isReadEdge q i with
    | true =>
      obtain ⟨en, hardware, del⟩ := exec_readEdge readSide e
      rcases readEdge_cases q en s.toHardware with ⟨_, valid, edge⟩ | ⟨_, edge⟩
      · exact .deliver writeSide readSide valid (by simp [hardware, edge]) acc (by simp [del, edge])
      · exact .readShift writeSide readSide (by simp [hardware, edge]) (by simp [hardware, edge]) acc (by simp [del, edge])
    | false =>
      have kept : t.toHardware.icf q = s.toHardware.icf q ∧ memRead q t.toHardware = memRead q s.toHardware := by
        rw [exec_hardware e]
        rcases effect_icf_cases i s.toHardware q with ⟨_, edge, _⟩ | ⟨_, edge, _⟩ | kept
        · simp [edge] at writeSide
        · simp [edge] at readSide
        · exact kept
      obtain ⟨icf, slot⟩ := kept
      exact .other writeSide readSide icf slot acc (deliveredWord_of_not_readEdge _ readSide)

/-! ### Runs of operations -/

/-- Input `x` presents operation `i`, and its step leads from `s` to `u`. -/
structure OpStep (x : Input) (i : Instr) (s u : State) : Prop where
  applied : applyInput x s = .next u
  op : inputOp x = some i
  executed : exec i { s with issuer := u.issuer } = .next u

/-- A run from `s` to `t` in which every input presents an operation. -/
inductive OpRun (t : State) : List Input → State → Prop
  | nil : OpRun t [] t
  | cons {x : Input} {i : Instr} {rest : List Input} {s u : State} (step : OpStep x i s u) (run : OpRun t rest u) :
      OpRun t (x :: rest) s

/-- An input that is not the reset and answers a next state presents an operation. -/
theorem opStep_of_applyInput {x : Input} {s u : State} (notReset : x ≠ .reset) (e : applyInput x s = .next u) :
    ∃ i, OpStep x i s u := by
  rcases applyInput_next e with ⟨reset, _⟩ | ⟨a, cw, i, rfl, decoded, _, executed⟩
  · exact absurd reset notReset
  · have issuer : u.issuer = a := exec_issuer executed
    exact ⟨i, e, by simp [inputOp, decoded, Except.toOption], by rwa [issuer]⟩

/-- A run with no reset is a run of operations. -/
theorem opRun_of_runInputs {ins : List Input} {s t : State} (clean : noReset ins) (e : runInputs ins s = .next t) :
    OpRun t ins s := by
  induction ins generalizing s with
  | nil => cases e; exact .nil
  | cons x rest ih =>
    obtain ⟨u, applied, e⟩ := runInputs_cons_next e
    obtain ⟨notReset, clean⟩ := List.forall_mem_cons.mp clean
    obtain ⟨i, step⟩ := opStep_of_applyInput notReset applied
    exact .cons step (ih clean e)

namespace OpStep

variable {x : Input} {i : Instr} {s u : State}

/-- What a run that begins with a step shows: what the step shows, and then what the rest shows. -/
theorem shown_cons (step : OpStep x i s u) (f : Instr → Result → List Word) (rest : List Input) :
    shown f (x :: rest) s = f i (u.results.of u.issuer) ++ shown f rest u := by
  simp [shown, step.applied, shownBy, step.op]

theorem accepted_cons (step : OpStep x i s u) (q : IcfId) (rest : List Input) :
    accepted q (x :: rest) s = acceptedWord q i (u.results.of u.issuer) ++ accepted q rest u :=
  step.shown_cons _ _

theorem delivered_cons (step : OpStep x i s u) (q : IcfId) (rest : List Input) :
    delivered q (x :: rest) s = deliveredWord q i (u.results.of u.issuer) ++ delivered q rest u :=
  step.shown_cons _ _

theorem countOps_cons (step : OpStep x i s u) (p : Instr → Bool) (rest : List Input) :
    countOps p (x :: rest) = countOps p rest + if p i then 1 else 0 := by
  simp [countOps, List.countP_cons, step.op]

theorem queueStep (step : OpStep x i s u) (q : IcfId) :
    QueueStep q i s.toHardware u.toHardware (acceptedWord q i (u.results.of u.issuer))
      (deliveredWord q i (u.results.of u.issuer)) :=
  exec_queueStep q (s := { s with issuer := u.issuer }) step.executed

/-- A step of an operation keeps the pointer protocol (R31). -/
theorem keeps_icfInv (step : OpStep x i s u) {q : IcfId} (inv : icfInv (s.toHardware.icf q)) :
    icfInv (u.toHardware.icf q) := by
  rw [exec_hardware step.executed]
  exact effect_icfInv i inv

end OpStep

/-- The pointer protocol of either queue, of the invariant. -/
theorem HwInv.icf {h : Hardware} (inv : HwInv h) (q : IcfId) : icfInv (h.icf q) := by
  cases q with
  | icf0 => exact inv.icf0
  | icf1 => exact inv.icf1

/-! ### Order, exactly-once delivery and no drops (R77, R78) -/

theorem inSlot_of_free {q : IcfId} {h : Hardware} (free : occupied (h.icf q) = false) : inSlot q h = [] := by
  simp [inSlot, free]

theorem inSlot_of_occupied {q : IcfId} {h : Hardware} (occ : occupied (h.icf q) = true) :
    inSlot q h = [slotWord q h] := by
  simp [inSlot, occ]

theorem occupied_eq_true_iff (f : Icf) : occupied f = true ↔ f.wptr ≠ f.rptr := by simp [occupied]

/-- The words in the slot depend on the two pointers and the slot alone. -/
theorem inSlot_congr {q : IcfId} {h h' : Hardware} (occ : occupied (h'.icf q) = occupied (h.icf q))
    (slot : memRead q h' = memRead q h) : inSlot q h' = inSlot q h := by
  simp [inSlot, slotWord, occ, slot]

/-- The slot holds one word while it is occupied (R30). -/
theorem inSlot_length (q : IcfId) (h : Hardware) :
    (inSlot q h).length = if occupied (h.icf q) = true then 1 else 0 := by
  unfold inSlot
  split <;> rfl

/-- Toggling the write pointer of a free slot occupies it. -/
theorem occupied_of_toggled_wptr {f g : Icf} (free : occupied f = false) (wptr : g.wptr = f.wptr ^^^ 1)
    (rptr : g.rptr = f.rptr) : occupied g = true := by
  rw [occupied_eq_false_iff] at free
  rw [occupied_eq_true_iff, wptr, rptr, ← free]
  exact ptr_toggle_ne f.wptr

/-- Toggling the read pointer of an occupied slot frees it. -/
theorem free_of_toggled_rptr {f g : Icf} (occ : occupied f = true) (wptr : g.wptr = f.wptr)
    (rptr : g.rptr = f.rptr ^^^ 1) : occupied g = false := by
  rw [occupied_eq_false_iff, wptr, rptr]
  exact ptr_eq_toggle ((occupied_eq_true_iff f).mp occ)

/-- One operation, under the pointer protocol: what was in the slot and then what it accepts is what it delivers and then
what is in the slot. An accepted word goes into a free slot, and a delivered word is the one in the slot (R137). -/
theorem QueueStep.keepsOrder {q : IcfId} {i : Instr} {h h' : Hardware} {acc del : List Word}
    (step : QueueStep q i h h' acc del) (inv : icfInv (h.icf q)) : inSlot q h ++ acc = del ++ inSlot q h' := by
  cases step with
  | accept w _ _ ready icf slot acc_eq del_eq =>
    have free := free_of_fullW_eq_false inv ((wrReady_eq_true_iff _).mp ready)
    have occ : occupied (h'.icf q) = true := occupied_of_toggled_wptr free (by rw [icf]) (by rw [icf]; rfl)
    simp [inSlot_of_free free, inSlot_of_occupied occ, slotWord, slot, acc_eq, del_eq]
  | deliver _ _ valid icf acc_eq del_eq =>
    have occ := occupied_of_emptyR_eq_false inv ((rdValid_eq_true_iff _).mp valid)
    have free : occupied (h'.icf q) = false := free_of_toggled_rptr occ (by rw [icf]; rfl) (by rw [icf])
    simp [inSlot_of_occupied occ, inSlot_of_free free, acc_eq, del_eq]
  | writeShift _ _ icf slot acc_eq del_eq | readShift _ _ icf slot acc_eq del_eq | other _ _ icf slot acc_eq del_eq =>
    have same : inSlot q h' = inSlot q h := inSlot_congr (by simp [icf, occupied]) slot
    simp [same, acc_eq, del_eq]

/-- Along a run of operations: what was in the slot and then the accepted words are the delivered words and then what is in
the slot (R77). -/
theorem OpRun.keepsOrder {q : IcfId} {ins : List Input} {s t : State} (run : OpRun t ins s)
    (inv : icfInv (s.toHardware.icf q)) :
    inSlot q s.toHardware ++ accepted q ins s = delivered q ins s ++ inSlot q t.toHardware := by
  induction run with
  | nil => simp [accepted, delivered, shown]
  | cons step _ ih =>
    rw [step.accepted_cons, step.delivered_cons, ← List.append_assoc, (step.queueStep q).keepsOrder inv,
      List.append_assoc, ih (step.keeps_icfInv inv), List.append_assoc]

/-- From reset, where the slots are free, the delivered words and then what is in the slot are the accepted words. -/
theorem accepted_from_reset (q : IcfId) {ins : List Input} {t : State} (clean : noReset ins)
    (e : runInputs ins State.reset = .next t) :
    accepted q ins State.reset = delivered q ins State.reset ++ inSlot q t.toHardware := by
  have empty : inSlot q State.reset.toHardware = [] := by cases q <;> rfl
  simpa [empty] using (opRun_of_runInputs clean e).keepsOrder (reset_hwInv.icf q)

/-- Settles O22: each operation keeps the order of the words, and from reset nothing was in the slot. -/
theorem queueKeepsOrder : Obligations.QueueKeepsOrder := by
  unfold Obligations.QueueKeepsOrder
  intro q ins s t clean inv e
  refine ⟨(opRun_of_runInputs clean e).keepsOrder (inv.icf q), ?fromReset⟩
  case fromReset =>
    rintro rfl
    refine ⟨accepted_from_reset q clean e, ?_⟩
    rw [inSlot_length]
    split <;> decide

/-- Settles O23: the accepted words from reset are the delivered ones and the word in the slot, counted. -/
theorem writesAndReadsAlternate : Obligations.WritesAndReadsAlternate := by
  unfold Obligations.WritesAndReadsAlternate
  intro q ins t clean e
  rw [accepted_from_reset q clean e, List.length_append, inSlot_length]

/-! ### How long a flag is stale (R82, R282) -/

/-- How many edges of its clock a synchroniser with the flops `q1` and `q2` is away from showing the pointer `p`. -/
def syncLag (q1 q2 p : Ptr) : Nat := if q2 = p then 0 else if q1 = p then 1 else 2

/-- The edges until the reader sees the write pointer. -/
def readLag (f : Icf) : Nat := syncLag f.rq1 f.rq2 f.wptr

/-- The edges until the writer sees the read pointer. -/
def writeLag (f : Icf) : Nat := syncLag f.wq1 f.wq2 f.rptr

theorem syncLag_le_two (q1 q2 p : Ptr) : syncLag q1 q2 p ≤ 2 := by
  unfold syncLag
  split
  · decide
  · split <;> decide

theorem syncLag_eq_zero_iff (q1 q2 p : Ptr) : syncLag q1 q2 p = 0 ↔ q2 = p := by
  unfold syncLag
  split
  · simp [*]
  · split <;> simp [*]

/-- An edge takes in the pointer and brings the synchroniser one edge nearer to showing it, unless the pointer has moved
on since the synchroniser showed it. -/
theorem syncLag_shift {q1 q2 p : Ptr} (steady : q2 = p → q1 = p) : syncLag p q1 p = syncLag q1 q2 p - 1 := by
  by_cases seen : q1 = p
  · simp only [syncLag, if_pos seen]
    split <;> rfl
  · have unseen : q2 ≠ p := fun shown => seen (steady shown)
    simp [syncLag, seen, unseen]

/-- Of an occupied slot `rd_valid` is 1 once the reader sees the write pointer. -/
theorem rdValid_of_readLag {f : Icf} (occ : occupied f = true) (lag : readLag f = 0) : rdValid f = true := by
  rw [rdValid_eq_true_iff, emptyR_eq_false_iff, (syncLag_eq_zero_iff _ _ _).mp lag]
  exact ((occupied_eq_true_iff f).mp occ).symm

/-- Of a free slot `wr_ready` is 1 once the writer sees the read pointer. -/
theorem wrReady_of_writeLag {f : Icf} (free : occupied f = false) (lag : writeLag f = 0) : wrReady f = true := by
  rw [wrReady_eq_true_iff, fullW_eq_false_iff, (syncLag_eq_zero_iff _ _ _).mp lag]
  exact ((occupied_eq_false_iff f).mp free).symm

/-- While the slot is occupied and nothing is delivered it stays occupied, and each read-side edge brings the reader one
edge nearer to seeing it. -/
theorem QueueStep.readLag_of_quiet {q : IcfId} {i : Instr} {h h' : Hardware} {acc del : List Word}
    (step : QueueStep q i h h' acc del) (inv : icfInv (h.icf q)) (occ : occupied (h.icf q) = true) (quiet : del = []) :
    occupied (h'.icf q) = true ∧
      readLag (h'.icf q) = readLag (h.icf q) - if isReadEdge q i then 1 else 0 := by
  cases step with
  | accept w _ _ ready =>
    have free := free_of_fullW_eq_false inv ((wrReady_eq_true_iff _).mp ready)
    simp [occ] at free
  | deliver _ _ _ _ _ del_eq => simp [quiet] at del_eq
  | writeShift _ readSide icf | other _ readSide icf =>
    rw [icf, readSide]
    exact ⟨occ, rfl⟩
  | readShift _ readSide icf =>
    obtain ⟨_, _, steady⟩ := (icfInv_iff_of_occupied ((occupied_eq_true_iff _).mp occ)).mp inv
    rw [icf, readSide]
    exact ⟨occ, syncLag_shift steady⟩

/-- While the slot is free and nothing is accepted it stays free, and each write-side edge brings the writer one edge
nearer to seeing it. -/
theorem QueueStep.writeLag_of_quiet {q : IcfId} {i : Instr} {h h' : Hardware} {acc del : List Word}
    (step : QueueStep q i h h' acc del) (inv : icfInv (h.icf q)) (free : occupied (h.icf q) = false) (quiet : acc = []) :
    occupied (h'.icf q) = false ∧
      writeLag (h'.icf q) = writeLag (h.icf q) - if isWriteEdge q i then 1 else 0 := by
  cases step with
  | accept w _ _ _ _ _ acc_eq => simp [quiet] at acc_eq
  | deliver _ _ valid =>
    have occ := occupied_of_emptyR_eq_false inv ((rdValid_eq_true_iff _).mp valid)
    simp [free] at occ
  | readShift writeSide _ icf | other writeSide _ icf =>
    rw [icf, writeSide]
    exact ⟨free, rfl⟩
  | writeShift writeSide _ icf =>
    have eq := (occupied_eq_false_iff _).mp free
    obtain ⟨_, _, steady⟩ := (icfInv_iff_of_free eq).mp inv
    rw [eq] at steady
    rw [icf, writeSide]
    exact ⟨free, syncLag_shift steady⟩

/-- Along a run that delivers nothing from an occupied slot, the reader comes nearer by the read-side edges that pass. -/
theorem OpRun.readLag_of_quiet {q : IcfId} {ins : List Input} {s t : State} (run : OpRun t ins s)
    (inv : icfInv (s.toHardware.icf q)) (occ : occupied (s.toHardware.icf q) = true) (quiet : delivered q ins s = []) :
    occupied (t.toHardware.icf q) = true ∧
      readLag (t.toHardware.icf q) = readLag (s.toHardware.icf q) - countOps (isReadEdge q) ins := by
  induction run with
  | nil => exact ⟨occ, rfl⟩
  | cons step _ ih =>
    rw [step.delivered_cons, List.append_eq_nil_iff] at quiet
    obtain ⟨quietStep, quietRest⟩ := quiet
    obtain ⟨occ', lag⟩ := (step.queueStep q).readLag_of_quiet inv occ quietStep
    obtain ⟨occT, lagT⟩ := ih (step.keeps_icfInv inv) occ' quietRest
    refine ⟨occT, ?_⟩
    rw [lagT, lag, step.countOps_cons]
    omega

/-- Along a run that accepts nothing into a free slot, the writer comes nearer by the write-side edges that pass. -/
theorem OpRun.writeLag_of_quiet {q : IcfId} {ins : List Input} {s t : State} (run : OpRun t ins s)
    (inv : icfInv (s.toHardware.icf q)) (free : occupied (s.toHardware.icf q) = false) (quiet : accepted q ins s = []) :
    occupied (t.toHardware.icf q) = false ∧
      writeLag (t.toHardware.icf q) = writeLag (s.toHardware.icf q) - countOps (isWriteEdge q) ins := by
  induction run with
  | nil => exact ⟨free, rfl⟩
  | cons step _ ih =>
    rw [step.accepted_cons, List.append_eq_nil_iff] at quiet
    obtain ⟨quietStep, quietRest⟩ := quiet
    obtain ⟨free', lag⟩ := (step.queueStep q).writeLag_of_quiet inv free quietStep
    obtain ⟨freeT, lagT⟩ := ih (step.keeps_icfInv inv) free' quietRest
    refine ⟨freeT, ?_⟩
    rw [lagT, lag, step.countOps_cons]
    omega

/-- Settles O24: a view lags by at most two edges, and every edge of its side takes one away. -/
theorem staleFlagsBounded : Obligations.StaleFlagsBounded := by
  unfold Obligations.StaleFlagsBounded
  intro q ins s t clean inv e
  have run := opRun_of_runInputs clean e
  refine ⟨fun occ quiet edges => ?readSide, fun free quiet edges => ?writeSide⟩
  case readSide =>
    obtain ⟨occT, lag⟩ := run.readLag_of_quiet (inv.icf q) occ quiet
    have : readLag (s.toHardware.icf q) ≤ 2 := syncLag_le_two _ _ _
    exact rdValid_of_readLag occT (by omega)
  case writeSide =>
    obtain ⟨freeT, lag⟩ := run.writeLag_of_quiet (inv.icf q) free quiet
    have : writeLag (s.toHardware.icf q) ≤ 2 := syncLag_le_two _ _ _
    exact wrReady_of_writeLag freeT (by omega)

/-! ### The closed mask (R83 (c), R215) -/

/-- With the mask closed no operation but an exit opens it, and the entry has no step. -/
theorem exec_maskClosed {i : Instr} {s t : State} (e : exec i s = .next t) (noExit : ∀ b, i ≠ .coreCsexit b)
    (closed : s.core.imask = true) : t.core.imask = true ∧ i ≠ .coreIrqentry := by
  obtain ⟨_, enabled⟩ := exec_next e
  refine ⟨?mask, fun entry => ?noEntry⟩
  case mask =>
    rw [exec_hardware e]
    rcases effect_core_cases i s.toHardware with ⟨_, core⟩ | ⟨_, core⟩ | ⟨b, exit, _⟩ | ⟨_, core⟩ | ⟨_, core⟩ | core
    case inr.inr.inl => exact absurd exit (noExit b)
    all_goals simp [core, closed]
  case noEntry => simpa [entryEnabled, closed] using enabled entry

/-- Along a run of operations with no exit the mask stays closed and no entry falls. -/
theorem OpRun.maskClosed {ins : List Input} {s t : State} (run : OpRun t ins s)
    (noExit : ∀ x ∈ ins, ∀ b, inputOp x ≠ some (.coreCsexit b)) (closed : s.core.imask = true) :
    t.core.imask = true ∧ ∀ x ∈ ins, inputOp x ≠ some .coreIrqentry := by
  induction run with
  | nil => exact ⟨closed, by simp⟩
  | cons step _ ih =>
    obtain ⟨noExitStep, noExitRest⟩ := List.forall_mem_cons.mp noExit
    rw [step.op] at noExitStep
    obtain ⟨closed', noEntry⟩ := exec_maskClosed step.executed (by simpa using noExitStep) closed
    obtain ⟨closedT, noEntryRest⟩ := ih noExitRest closed'
    exact ⟨closedT, List.forall_mem_cons.mpr ⟨by simpa [step.op] using noEntry, noEntryRest⟩⟩

/-- Settles O53: each operation of the section leaves the mask closed, and under a closed mask the entry has no step. -/
theorem noEntryInsideSection : Obligations.NoEntryInsideSection := by
  unfold Obligations.NoEntryInsideSection
  intro ins s t clean noExit closed e
  exact (opRun_of_runInputs clean e).maskClosed noExit closed

end Sys2Proof.Machine

/-! The encoding (R100 to R110): the formats of `ARG`, the decoder and the encoder as inverses, the decoder against the
opcode table, and the hexadecimal form. -/

namespace Sys2Proof

/-! ### The formats of `ARG` (R102, R110) -/

/-- Format H: `zext_32` of a register leaves `ARG[31:16]` zero. -/
theorem argOfReg_eq_append (v : Reg) : argOfReg v = 0#16 ++ v := by
  simp [argOfReg, BitVec.zeroExtend, BitVec.setWidth_eq_append]

/-- Format B: `zext_32` of a bit leaves `ARG[31:1]` zero. -/
theorem argOfBit_eq_append (b : Bool) : argOfBit b = 0#31 ++ BitVec.ofBool b := by cases b <;> rfl

/-- Format C: `ARG` is its two registers, joined. -/
theorem argDiv_append_argTop (arg : BitVec 32) : argDiv arg ++ argTop arg = arg := BitVec.extractLsb'_append_extractLsb'

/-- With `ARG[31:16]` zero, `ARG` is `zext_32` of its lower half. -/
theorem argOfReg_argVal {arg : BitVec 32} (zero : arg.extractLsb' 16 16 = 0) : argOfReg (argVal arg) = arg := by
  calc argOfReg (argVal arg) = arg.extractLsb' 16 16 ++ arg.extractLsb' 0 16 := by rw [argOfReg_eq_append, zero]; rfl
    _ = arg := BitVec.extractLsb'_append_extractLsb'

/-- With `ARG[31:1]` zero, `ARG` is `zext_32` of its lowest bit. -/
theorem argOfBit_argBit {arg : BitVec 32} (zero : arg.extractLsb' 1 31 = 0) : argOfBit (argBit arg) = arg := by
  have bit : BitVec.ofBool (argBit arg) = arg.extractLsb' 0 1 := by
    ext k hk
    obtain rfl : k = 0 := by omega
    simp [argBit]
  calc argOfBit (argBit arg) = arg.extractLsb' 1 31 ++ arg.extractLsb' 0 1 := by rw [argOfBit_eq_append, zero, bit]; rfl
    _ = arg := BitVec.extractLsb'_append_extractLsb'

/-! ### What is encoded decodes -/

theorem formatH_argOfReg (v : Reg) (f : Reg → Instr) : formatH (argOfReg v) f = .ok (f v) := by
  have zero : (0#16 ++ v).extractLsb' 16 16 = 0 := BitVec.extractLsb'_append_eq_left
  have val : argVal (0#16 ++ v) = v := BitVec.extractLsb'_append_eq_right
  rw [argOfReg_eq_append, formatH, if_pos zero, val]

theorem formatB_argOfBit (b : Bool) (f : Bool → Instr) : formatB (argOfBit b) f = .ok (f b) := by cases b <;> rfl

theorem argDiv_append (div top : Reg) : argDiv (div ++ top) = div := BitVec.extractLsb'_append_eq_left

theorem argTop_append (div top : Reg) : argTop (div ++ top) = top := BitVec.extractLsb'_append_eq_right

/-- Decoding an encoded operation gives it back: its `OP` selects its own arm of the decoder, and its `ARG` has the format
of that arm. -/
theorem decode_encode (i : Instr) : decode (encode i) = .ok i := by
  rw [decode, opField_encode, argField_encode]
  cases i with
  | icf0Write | icf0Trywrite | icf1Write | icf1Trywrite =>
    simp [decodeFields, decodeIcf, blkField, fnField, opOf, argOf, Instr.icfWrite, Instr.icfTrywrite]
  | pwmCfg div top =>
    simp [decodeFields, decodePwm, blkField, fnField, opOf, argOf, argDiv_append, argTop_append]
  | pwmSetduty | pwmIrqen =>
    simp [decodeFields, decodePwm, blkField, fnField, opOf, argOf, formatH_argOfReg, formatB_argOfBit]
  | btn0Sample | btn1Sample =>
    simp [decodeFields, decodeBtn, blkField, fnField, opOf, argOf, formatB_argOfBit, Instr.btnSample]
  | coreCsexit => simp [decodeFields, decodeCore, blkField, fnField, opOf, argOf, formatB_argOfBit]
  | _ => rfl

/-- Settles O1. -/
theorem decodeEncodeRoundTrip : Obligations.DecodeEncodeRoundTrip := by
  unfold Obligations.DecodeEncodeRoundTrip
  exact decode_encode

/-! ### What decodes is encoded -/

theorem formatZ_ok {arg : BitVec 32} {i j : Instr} (e : formatZ arg j = .ok i) : i = j ∧ arg = 0 := by
  unfold formatZ at e
  split at e
  · next zero => exact ⟨(Except.ok.inj e).symm, zero⟩
  · cases e

theorem formatH_ok {arg : BitVec 32} {f : Reg → Instr} {i : Instr} (e : formatH arg f = .ok i) :
    ∃ v, i = f v ∧ arg = argOfReg v := by
  unfold formatH at e
  split at e
  · next zero => exact ⟨argVal arg, (Except.ok.inj e).symm, (argOfReg_argVal zero).symm⟩
  · cases e

theorem formatB_ok {arg : BitVec 32} {f : Bool → Instr} {i : Instr} (e : formatB arg f = .ok i) :
    ∃ b, i = f b ∧ arg = argOfBit b := by
  unfold formatB at e
  split at e
  · next zero => exact ⟨argBit arg, (Except.ok.inj e).symm, (argOfBit_argBit zero).symm⟩
  · cases e

/-- Operation `i` has the block, the function and the `ARG` that are given (R101, R102). -/
def HasFields (i : Instr) (blk fn : BitVec 4) (arg : BitVec 32) : Prop := opOf i = blk ++ fn ∧ argOf i = arg

/-- `BLK` of a queue (R101). -/
def icfBlk : IcfId → BitVec 4
  | .icf0 => 0x1
  | .icf1 => 0x2

/-- `BLK` of a button (R101). -/
def btnBlk : BtnId → BitVec 4
  | .btn0 => 0x4
  | .btn1 => 0x5

theorem decodeIcf_ok {q : IcfId} {fn : BitVec 4} {arg : BitVec 32} {i : Instr} (e : decodeIcf q fn arg = .ok i) :
    HasFields i (icfBlk q) fn arg := by
  unfold decodeIcf at e
  split_ifs at e with write trywrite read wtick rtick <;> subst fn
  · cases e; cases q <;> exact ⟨rfl, rfl⟩
  · cases e; cases q <;> exact ⟨rfl, rfl⟩
  · obtain ⟨rfl, rfl⟩ := formatZ_ok e; cases q <;> exact ⟨rfl, rfl⟩
  · obtain ⟨rfl, rfl⟩ := formatZ_ok e; cases q <;> exact ⟨rfl, rfl⟩
  · obtain ⟨rfl, rfl⟩ := formatZ_ok e; cases q <;> exact ⟨rfl, rfl⟩

theorem decodePwm_ok {fn : BitVec 4} {arg : BitVec 32} {i : Instr} (e : decodePwm fn arg = .ok i) :
    HasFields i 0x3 fn arg := by
  unfold decodePwm at e
  split_ifs at e with cfg start setduty irqen irqclr tick <;> subst fn
  · cases e; exact ⟨rfl, argDiv_append_argTop arg⟩
  · obtain ⟨rfl, rfl⟩ := formatZ_ok e; exact ⟨rfl, rfl⟩
  · obtain ⟨v, rfl, rfl⟩ := formatH_ok e; exact ⟨rfl, rfl⟩
  · obtain ⟨b, rfl, rfl⟩ := formatB_ok e; exact ⟨rfl, rfl⟩
  · obtain ⟨rfl, rfl⟩ := formatZ_ok e; exact ⟨rfl, rfl⟩
  · obtain ⟨rfl, rfl⟩ := formatZ_ok e; exact ⟨rfl, rfl⟩

theorem decodeBtn_ok {j : BtnId} {fn : BitVec 4} {arg : BitVec 32} {i : Instr} (e : decodeBtn j fn arg = .ok i) :
    HasFields i (btnBlk j) fn arg := by
  unfold decodeBtn at e
  split_ifs at e with sample read clear <;> subst fn
  · obtain ⟨b, rfl, rfl⟩ := formatB_ok e; cases j <;> exact ⟨rfl, rfl⟩
  · obtain ⟨rfl, rfl⟩ := formatZ_ok e; cases j <;> exact ⟨rfl, rfl⟩
  · obtain ⟨rfl, rfl⟩ := formatZ_ok e; cases j <;> exact ⟨rfl, rfl⟩

theorem decodeCore_ok {fn : BitVec 4} {arg : BitVec 32} {i : Instr} (e : decodeCore fn arg = .ok i) :
    HasFields i 0x6 fn arg := by
  unfold decodeCore at e
  split_ifs at e with wfi csenter csexit irqentry irqret <;> subst fn
  · obtain ⟨rfl, rfl⟩ := formatZ_ok e; exact ⟨rfl, rfl⟩
  · obtain ⟨rfl, rfl⟩ := formatZ_ok e; exact ⟨rfl, rfl⟩
  · obtain ⟨b, rfl, rfl⟩ := formatB_ok e; exact ⟨rfl, rfl⟩
  · obtain ⟨rfl, rfl⟩ := formatZ_ok e; exact ⟨rfl, rfl⟩
  · obtain ⟨rfl, rfl⟩ := formatZ_ok e; exact ⟨rfl, rfl⟩

theorem decodeFields_ok {blk fn : BitVec 4} {arg : BitVec 32} {i : Instr} (e : decodeFields blk fn arg = .ok i) :
    HasFields i blk fn arg := by
  unfold decodeFields at e
  split_ifs at e with icf0 icf1 pwm btn0 btn1 core <;> subst blk
  · exact decodeIcf_ok (q := .icf0) e
  · exact decodeIcf_ok (q := .icf1) e
  · exact decodePwm_ok e
  · exact decodeBtn_ok (j := .btn0) e
  · exact decodeBtn_ok (j := .btn1) e
  · exact decodeCore_ok e

/-- The decoder reads an operation from its CW40 and from no other (R100, R106). -/
theorem decode_eq_ok_iff (cw : Cw) (i : Instr) : decode cw = .ok i ↔ encode i = cw := by
  refine ⟨fun e => ?spelling, fun e => e ▸ decode_encode i⟩
  case spelling =>
    obtain ⟨op, arg⟩ := decodeFields_ok e
    calc encode i = (blkField (opField cw) ++ fnField (opField cw)) ++ argField cw := by rw [encode, op, arg]
      _ = opField cw ++ argField cw := congrArg (· ++ argField cw) BitVec.extractLsb'_append_extractLsb'
      _ = cw := fields_join cw

/-- Settles O2. -/
theorem encodeDecodeRoundTrip : Obligations.EncodeDecodeRoundTrip := by
  unfold Obligations.EncodeDecodeRoundTrip
  exact fun cw i => (decode_eq_ok_iff cw i).mp

/-! ### Written words (95_test_vectors.md 2.0) -/

/-- Settles O4: each legal word is the encoding of its operation, and each illegal one ends in its arm of the decoder. -/
theorem decodeWrittenWords : Obligations.DecodeWrittenWords := by
  unfold Obligations.DecodeWrittenWords
  refine ⟨decode_encode (.icf0Write 0x80#32), decode_encode (.icf1Trywrite 0#32), decode_encode (.pwmCfg 1#16 4096#16),
    decode_encode (.pwmSetduty 2040#16), decode_encode (.btn1Sample true), decode_encode (.coreCsexit true),
    ?block, ?function, ?zeroField⟩
  case block | function | zeroField => rfl

end Sys2Proof

/-! The decoder against the opcode table (R104, R106). -/

namespace Sys2Proof

/-! ### The rows of the table, from the fields of the encoder -/

/-- The format of an operation's `ARG` (R102, R104). -/
def formatOf : Instr → Format
  | .icf0Write _ | .icf0Trywrite _ | .icf1Write _ | .icf1Trywrite _ => .W
  | .pwmCfg _ _ => .C
  | .pwmSetduty _ => .H
  | .pwmIrqen _ | .btn0Sample _ | .btn1Sample _ | .coreCsexit _ => .B
  | _ => .Z

/-- The bits of `ARG` that a format marks zero (R102). -/
def zeroFields : Format → BitVec 32
  | .W | .C => 0
  | .Z => BitVec.allOnes 32
  | .H => BitVec.allOnes 16 ++ 0#16
  | .B => BitVec.allOnes 31 ++ 0#1

/-- The row of an operation, from the fields the encoder gives it. -/
def rowOf (i : Instr) : TableRow where
  mnemonic := mnemonic i
  format := formatOf i
  pattern := opOf i ++ 0#32
  mask := 0xFF#8 ++ zeroFields (formatOf i)

/-- One operation of each row, in the order of the table. -/
def tableOperations : List Instr :=
  [.icf0Write 0, .icf0Trywrite 0, .icf0Read, .icf0Wtick, .icf0Rtick, .icf1Write 0, .icf1Trywrite 0, .icf1Read,
    .icf1Wtick, .icf1Rtick, .pwmCfg 0 0, .pwmStart, .pwmSetduty 0, .pwmIrqen false, .pwmIrqclr, .pwmTick,
    .btn0Sample false, .btn0Read, .btn0Clear, .btn1Sample false, .btn1Read, .btn1Clear, .coreWfi, .coreCsenter,
    .coreCsexit false, .coreIrqentry, .coreIrqret]

/-- The opcode table is the rows of the operations: the two writings of the table agree. -/
theorem opcodeTable_eq_map_rowOf : opcodeTable = tableOperations.map rowOf := by decide

/-- The row of an operation stands in the table: a row does not depend on the operand. -/
theorem rowOf_mem_opcodeTable (i : Instr) : rowOf i ∈ opcodeTable := by
  have mem {j : Instr} (listed : j ∈ tableOperations) : rowOf j ∈ opcodeTable :=
    opcodeTable_eq_map_rowOf ▸ List.mem_map_of_mem listed
  cases i with
  | icf0Write => exact mem (j := .icf0Write 0) (by decide)
  | icf0Trywrite => exact mem (j := .icf0Trywrite 0) (by decide)
  | icf1Write => exact mem (j := .icf1Write 0) (by decide)
  | icf1Trywrite => exact mem (j := .icf1Trywrite 0) (by decide)
  | pwmCfg => exact mem (j := .pwmCfg 0 0) (by decide)
  | pwmSetduty => exact mem (j := .pwmSetduty 0) (by decide)
  | pwmIrqen => exact mem (j := .pwmIrqen false) (by decide)
  | btn0Sample => exact mem (j := .btn0Sample false) (by decide)
  | btn1Sample => exact mem (j := .btn1Sample false) (by decide)
  | coreCsexit => exact mem (j := .coreCsexit false) (by decide)
  | _ => exact mem (by decide)

/-- No two rows have the same `OP` (R106: the rows do not overlap). -/
theorem opcodeTable_op_nodup : (opcodeTable.map (fun r => opField r.pattern)).Nodup := by decide

/-! ### When a value fits a row -/

/-- Two CW40s are equal where both fields are. -/
theorem op_append_arg_inj {op op' : BitVec 8} {arg arg' : BitVec 32} :
    op ++ arg = op' ++ arg' ↔ op = op' ∧ arg = arg' := by
  refine ⟨fun e => ⟨?_, ?_⟩, fun ⟨eop, earg⟩ => by rw [eop, earg]⟩
  · simpa using congrArg opField e
  · simpa using congrArg argField e

/-- A value fits the row of an operation where it has its `OP` and zeros in the fields marked zero (R106). -/
theorem rowOf_fits_iff (i : Instr) (cw : Cw) :
    (rowOf i).fits cw = true ↔ opField cw = opOf i ∧ argField cw &&& zeroFields (formatOf i) = 0 := by
  have masked : cw &&& (rowOf i).mask = opField cw ++ (argField cw &&& zeroFields (formatOf i)) := by
    conv_lhs => rw [← fields_join cw]
    exact BitVec.and_append.trans (congrArg (· ++ _) (BitVec.and_allOnes (x := opField cw)))
  rw [TableRow.fits, beq_iff_eq, masked]
  exact op_append_arg_inj

/-- A field that is marked zero and masked to zero holds zeros. -/
theorem and_allOnes_append_eq_zero {w n : Nat} {x : BitVec (w + n)} (zero : x &&& (BitVec.allOnes w ++ 0#n) = 0) :
    x.extractLsb' n w = 0 := by
  have masked : x &&& (BitVec.allOnes w ++ 0#n) = x.extractLsb' n w ++ 0#n := by
    conv_lhs => rw [← BitVec.extractLsb'_append_extractLsb' (x := x)]
    rw [BitVec.and_append, BitVec.and_allOnes, BitVec.and_zero]
  calc x.extractLsb' n w = (x.extractLsb' n w ++ 0#n).extractLsb' n w := BitVec.extractLsb'_append_eq_left.symm
    _ = (0 : BitVec (w + n)).extractLsb' n w := by rw [← masked, zero]
    _ = 0 := by simp

/-- The encoder leaves the fields that a format marks zero at zero. -/
theorem argOf_zeroFields (i : Instr) : argOf i &&& zeroFields (formatOf i) = 0 := by
  cases i with
  | icf0Write | icf0Trywrite | icf1Write | icf1Trywrite | pwmCfg => exact BitVec.and_zero
  | pwmSetduty v =>
    change argOfReg v &&& (BitVec.allOnes 16 ++ 0#16) = 0
    rw [argOfReg_eq_append, BitVec.and_append]
    simp
  | pwmIrqen b | btn0Sample b | btn1Sample b | coreCsexit b => cases b <;> rfl
  | _ => rfl

/-- Every `ARG` with zeros in the fields a row marks zero is the `ARG` of an operation of that row (R102, R104). -/
theorem exists_argOf_eq (i : Instr) {arg : BitVec 32} (zero : arg &&& zeroFields (formatOf i) = 0) :
    ∃ j, opOf j = opOf i ∧ argOf j = arg := by
  have ofZ (zero : arg &&& BitVec.allOnes 32 = 0) : 0 = arg := (BitVec.and_allOnes.symm.trans zero).symm
  have ofH (zero : arg &&& zeroFields .H = 0) : argOfReg (argVal arg) = arg :=
    argOfReg_argVal (and_allOnes_append_eq_zero zero)
  have ofB (zero : arg &&& zeroFields .B = 0) : argOfBit (argBit arg) = arg :=
    argOfBit_argBit (and_allOnes_append_eq_zero zero)
  cases i with
  | icf0Write => exact ⟨.icf0Write arg, rfl, rfl⟩
  | icf0Trywrite => exact ⟨.icf0Trywrite arg, rfl, rfl⟩
  | icf1Write => exact ⟨.icf1Write arg, rfl, rfl⟩
  | icf1Trywrite => exact ⟨.icf1Trywrite arg, rfl, rfl⟩
  | pwmCfg => exact ⟨.pwmCfg (argDiv arg) (argTop arg), rfl, argDiv_append_argTop arg⟩
  | pwmSetduty => exact ⟨.pwmSetduty (argVal arg), rfl, ofH zero⟩
  | pwmIrqen => exact ⟨.pwmIrqen (argBit arg), rfl, ofB zero⟩
  | btn0Sample => exact ⟨.btn0Sample (argBit arg), rfl, ofB zero⟩
  | btn1Sample => exact ⟨.btn1Sample (argBit arg), rfl, ofB zero⟩
  | coreCsexit => exact ⟨.coreCsexit (argBit arg), rfl, ofB zero⟩
  | _ => exact ⟨_, rfl, ofZ zero⟩

/-! ### The decoder accepts exactly the table (R106) -/

/-- A value that fits a row is the encoding of an operation. -/
theorem exists_encode_eq {cw : Cw} (legal : wellFormedWord cw = true) : ∃ i, encode i = cw := by
  obtain ⟨r, mem, fits⟩ := List.any_eq_true.mp legal
  rw [opcodeTable_eq_map_rowOf, List.mem_map] at mem
  obtain ⟨i, _, rfl⟩ := mem
  obtain ⟨op, zero⟩ := (rowOf_fits_iff i cw).mp fits
  obtain ⟨j, op_eq, arg_eq⟩ := exists_argOf_eq i zero
  exact ⟨j, by rw [encode, op_eq, arg_eq, ← op, fields_join]⟩

/-- An encoding fits the row of its operation. -/
theorem rowOf_fits_encode (i : Instr) : (rowOf i).fits (encode i) = true := by
  rw [rowOf_fits_iff, opField_encode, argField_encode]
  exact ⟨rfl, argOf_zeroFields i⟩

/-- A value that fits a row has the `OP` of that row. -/
theorem opField_pattern_of_fits {r : TableRow} {cw : Cw} (mem : r ∈ opcodeTable) (fits : r.fits cw = true) :
    opField r.pattern = opField cw := by
  rw [opcodeTable_eq_map_rowOf, List.mem_map] at mem
  obtain ⟨j, _, rfl⟩ := mem
  obtain ⟨op, _⟩ := (rowOf_fits_iff j cw).mp fits
  rw [op]
  exact opField_append _ _

/-- Of the rows of the table an encoding fits that of its operation alone: another one has another `OP`. -/
theorem fits_encode_iff {r : TableRow} (mem : r ∈ opcodeTable) (i : Instr) :
    r.fits (encode i) = true ↔ r = rowOf i := by
  refine ⟨fun fits => ?only, fun e => e ▸ rowOf_fits_encode i⟩
  case only =>
    have sameOp : opField r.pattern = opField (rowOf i).pattern :=
      (opField_pattern_of_fits mem fits).trans
        (opField_pattern_of_fits (rowOf_mem_opcodeTable i) (rowOf_fits_encode i)).symm
    exact List.inj_on_of_nodup_map opcodeTable_op_nodup mem (rowOf_mem_opcodeTable i) sameOp

/-- An encoding fits exactly one row, that of its operation. -/
theorem filter_table_fits_encode (i : Instr) : opcodeTable.filter (fun r => r.fits (encode i)) = [rowOf i] := by
  have once : opcodeTable.count (rowOf i) = 1 :=
    List.count_eq_one_of_mem opcodeTable_op_nodup.of_map (rowOf_mem_opcodeTable i)
  calc opcodeTable.filter (fun r => r.fits (encode i))
      = opcodeTable.filter (fun r => decide (r = rowOf i)) :=
        List.filter_congr fun r mem => Bool.eq_iff_iff.mpr (by simpa using fits_encode_iff mem i)
    _ = [rowOf i] := by rw [List.filter_eq, once, List.replicate_one]

/-- An encoding is legal. -/
theorem wellFormedWord_encode (i : Instr) : wellFormedWord (encode i) = true :=
  List.any_eq_true.mpr ⟨rowOf i, rowOf_mem_opcodeTable i, rowOf_fits_encode i⟩

/-- A value that fits no row decodes to no operation. -/
theorem decode_error_of_illegal {cw : Cw} (illegal : wellFormedWord cw = false) : ∃ e, decode cw = .error e := by
  cases decoded : decode cw with
  | error e => exact ⟨e, rfl⟩
  | ok i =>
    rw [← (decode_eq_ok_iff cw i).mp decoded, wellFormedWord_encode] at illegal
    cases illegal

/-- Settles O3: what fits a row is an encoding, which decodes and fits the row of its operation alone; what fits no row
does not decode, and the step refuses it. -/
theorem decodeAcceptsExactlyTable : Obligations.DecodeAcceptsExactlyTable := by
  unfold Obligations.DecodeAcceptsExactlyTable
  refine fun cw => ⟨fun legal => ?legal, fun illegal a s => ?illegal⟩
  case legal =>
    obtain ⟨i, rfl⟩ := exists_encode_eq legal
    exact ⟨i, decode_encode i, by rw [filter_table_fits_encode]; rfl⟩
  case illegal =>
    obtain ⟨e, decoded⟩ := decode_error_of_illegal illegal
    exact ⟨e, by simp only [Machine.applyInput, decoded]⟩

end Sys2Proof

/-! The hexadecimal form of a CW40 (R100). -/

namespace Sys2Proof

/-- Appending a digit to a number moves the digits before it up by one place. -/
theorem shiftRight_push_digit (cw : Cw) (k : Nat) :
    ((cw >>> (k + 4)) <<< 4) ||| (cw.extractLsb' k 4).zeroExtend 40 = cw >>> k := by
  ext b hb
  by_cases low : b < 4
  · simp [low]
  · have place : k + 4 + (b - 4) = k + b := by omega
    simp [low, place]

/-- The first `n` digits spell the CW40 without the digits below them. -/
theorem foldl_hexDigits (cw : Cw) {n : Nat} (le : n ≤ 10) :
    ((List.range n).map (fun k => cw.extractLsb' (4 * (9 - k)) 4)).foldl
      (fun (word : Cw) d => (word <<< 4) ||| d.zeroExtend 40) 0#40 = cw >>> (4 * (10 - n)) := by
  induction n with
  | zero => exact (BitVec.ushiftRight_eq_zero (by decide)).symm
  | succ n ih =>
    have place : 4 * (10 - n) = 4 * (9 - n) + 4 := by omega
    have next : 10 - (n + 1) = 9 - n := by omega
    rw [List.range_succ, List.map_append, List.foldl_append, ih (by omega), place, next]
    exact shiftRight_push_digit cw (4 * (9 - n))

theorem hexDigits_length (cw : Cw) : (hexDigits cw).length = 10 := by simp [hexDigits]

/-- The first digit is `BLK` (R101). -/
theorem hexDigits_head (cw : Cw) : (hexDigits cw).head? = some (blkField (opField cw)) := by
  have digit : blkField (opField cw) = cw.extractLsb' 36 4 := by
    ext k hk
    have inOp : 4 + k < 8 := by omega
    have place : 32 + (4 + k) = 36 + k := by omega
    simp [blkField, opField, inOp, place]
  rw [digit]
  rfl

/-- Settles O5: the fold over all ten digits gives the CW40 back. -/
theorem hexDigitsSpellWord : Obligations.HexDigitsSpellWord := by
  unfold Obligations.HexDigitsSpellWord
  refine fun cw => ⟨hexDigits_length cw, hexDigits_head cw, ?spelled⟩
  case spelled =>
    rw [ofHexDigits, if_pos (hexDigits_length cw), hexDigits, foldl_hexDigits cw le_rfl]
    rfl

end Sys2Proof

/-! Operations that are presented as their CW40: the placed operation (log 2), and the critical section (R112, R213, R214). -/

namespace Sys2Proof.Machine

/-- An input with the CW40 of an operation presents that operation. -/
@[simp] theorem applyInput_encode (a : Agent) (i : Instr) (s : State) :
    applyInput (.present a (encode i)) s = present a i s := by
  simp only [applyInput, decode_encode]

/-- An operation whose step exists runs, with its agent as the issuer. -/
theorem present_of_mayPresent {s : State} {a : Agent} {i : Instr} (stepExists : mayPresent s a i = true) :
    present a i s = exec i { s with issuer := a } := if_pos stepExists

/-- An agent that may step may present any operation. -/
theorem mayPresent_of_mayStep {s : State} {a : Agent} (may : mayStep s a = true) (i : Instr) :
    mayPresent s a i = true := by
  simp [mayPresent, may]

/-! ### The placed operation (log 2) -/

/-- The step of the agent that presents a placed operation exists: `PROD` stands in where the agent of R104 has none. -/
theorem mayPresent_fetchIssuer (s : State) (i : Instr) : mayPresent s (fetchIssuer s i) i = true := by
  by_cases own : mayPresent s (issuerOf s i) i = true
  · rw [fetchIssuer, if_pos own]; exact own
  · rw [fetchIssuer, if_neg own]; exact mayPresent_of_mayStep rfl i

/-- The input that presents the number of an operation's CW40. -/
theorem fetchInput_encode (s : State) (i : Instr) :
    fetchInput s (encode i).toNat = .present (fetchIssuer s i) (encode i) := by
  have word : cwOfNat (encode i).toNat = encode i := BitVec.ofNat_toNat 40 (encode i) |>.trans (BitVec.setWidth_eq _)
  simp only [fetchInput, word, decode_encode]

/-- Settles O8: the placed input is taken first, it decodes to the operation, and its agent has a step. -/
theorem placedWordRunsNext : Obligations.PlacedWordRunsNext := by
  unfold Obligations.PlacedWordRunsNext
  intro s i
  refine ⟨mayPresent_fetchIssuer s i, ?runs⟩
  case runs =>
    calc step (s.withFetchWord 40 (encode i).toNat)
        = applyInput (fetchInput s (encode i).toNat) s := step_listed rfl
      _ = exec i { s with issuer := fetchIssuer s i } := by
        rw [fetchInput_encode, applyInput_encode, present_of_mayPresent (mayPresent_fetchIssuer s i)]

/-! ### Runs -/

/-- A run of one line is the step of its operation, where its agent may step. -/
theorem runInputs_line {s : State} {a : Agent} (may : mayStep s a = true) (i : Instr) :
    runInputs [line a i] s = exec i { s with issuer := a } := by
  have step : applyInput (line a i) s = exec i { s with issuer := a } :=
    (applyInput_encode a i s).trans (present_of_mayPresent (mayPresent_of_mayStep may i))
  simp only [runInputs, step]
  cases exec i { s with issuer := a } <;> rfl

/-- A run over a joined list that answers a next state is a run over the first part and then one over the second. -/
theorem runInputs_append_next {xs ys : List Input} {s t : State} (e : runInputs (xs ++ ys) s = .next t) :
    ∃ u, runInputs xs s = .next u ∧ runInputs ys u = .next t := by
  induction xs generalizing s with
  | nil => exact ⟨s, rfl, e⟩
  | cons x rest ih =>
    obtain ⟨v, applied, e⟩ := runInputs_cons_next e
    obtain ⟨u, run, last⟩ := ih e
    exact ⟨u, by simp only [runInputs, applied, run], last⟩

/-! ### Entering and leaving a critical section (R213, R214) -/

/-- The agents of core A, which R245 permits to open and to close a section. -/
def OfCoreA (a : Agent) : Prop := a = .cons ∨ a = .hand

theorem permits_csenter {a : Agent} (ofCore : OfCoreA a) : permits a .coreCsenter = true := decide_eq_true ofCore

theorem permits_csexit {a : Agent} (ofCore : OfCoreA a) (b : Bool) : permits a (.coreCsexit b) = true :=
  decide_eq_true ofCore

/-- The state after `CORE.CSENTER` of agent `a`: the mask is closed, and the token is the mask it was (R213). -/
def afterEnter (a : Agent) (s : State) : State :=
  { s with
    core := { s.core with imask := true }, issuer := a,
    results := s.results.give a (.doneToken (BitVec.ofBool s.core.imask)), violations := [] }

/-- The state after `CORE.CSEXIT b` of agent `a` inside a section: the mask is `b` (R214). -/
def afterExit (a : Agent) (b : Bool) (s : State) : State :=
  { s with
    core := { s.core with imask := b }, issuer := a, results := s.results.give a .done, violations := [] }

/-- An agent of core A that may step enters a section. -/
theorem run_csenter {s : State} {a : Agent} (ofCore : OfCoreA a) (may : mayStep s a = true) :
    runInputs [line a .coreCsenter] s = .next (afterEnter a s) := by
  rw [runInputs_line may]
  simp only [exec, execCoreCsenter, scopeReports_permitted (permits_csenter ofCore), conclude_nil]
  rfl

/-- An agent of core A that may step leaves an open section, whatever mask it writes, and reports nothing. -/
theorem run_csexit {s : State} {a : Agent} (ofCore : OfCoreA a) (may : mayStep s a = true) (closed : s.core.imask = true)
    (b : Bool) : runInputs [line a (.coreCsexit b)] s = .next (afterExit a b s) := by
  rw [runInputs_line may]
  simp only [exec, execCoreCsexit, closed, if_true, operationReports_nil, scopeReports_permitted (permits_csexit ofCore b),
    conclude_nil]
  rfl

/-- A run of one exit ends with the mask that the exit writes. -/
theorem imask_of_run_csexit {u t : State} {a : Agent} {b : Bool}
    (e : runInputs [line a (.coreCsexit b)] u = .next t) : t.core.imask = b := by
  obtain ⟨v, applied, done⟩ := runInputs_cons_next e
  cases done
  rw [line, applyInput_encode] at applied
  unfold present at applied
  split at applied
  · rw [exec_hardware applied]; rfl
  · cases applied

/-- No entry is enabled under a closed mask, so none holds an agent back (R215, R241). -/
theorem heldByEntry_of_closed {s : State} (closed : s.core.imask = true) : heldByEntry s = false := by
  simp [heldByEntry, entryEnabled, closed]

/-- An agent of core A that may step still may once the mask is closed (R210, R241). -/
theorem mayStep_of_closed {s t : State} {a : Agent} (ofCore : OfCoreA a) (may : mayStep s a = true)
    (closed : t.core.imask = true) (inh : t.core.inh = s.core.inh) (waiting : t.core.waiting = s.core.waiting) :
    mayStep t a = true := by
  have notHeld := heldByEntry_of_closed closed
  rcases ofCore with rfl | rfl
  all_goals
    obtain ⟨free, _⟩ := Bool.and_eq_true_iff.mp may
    simpa [mayStep, inh, waiting, notHeld] using free

/-- Inside the section that it entered an agent may step. -/
theorem mayStep_afterEnter {s : State} {a : Agent} (ofCore : OfCoreA a) (may : mayStep s a = true) :
    mayStep (afterEnter a s) a = true := mayStep_of_closed ofCore may rfl rfl rfl

/-- Two nested sections of the foreground: the tokens are 0 and 1, the inner exit leaves the mask closed, the outer one
opens it. -/
theorem nested_sections {s : State} (core : s.core = { imask := false, inh := false, waiting := false })
    (latency : s.params.irqLatencyZero = false) :
    ∃ t₁ t₂ t₃ t₄, runInputs [line .cons .coreCsenter] s = .next t₁ ∧ t₁.results.cons = .doneToken 0 ∧
      runInputs [line .cons .coreCsenter] t₁ = .next t₂ ∧ t₂.results.cons = .doneToken 1 ∧
      runInputs [line .cons (.coreCsexit true)] t₂ = .next t₃ ∧ t₃.core.imask = true ∧ t₃.violations = [] ∧
      runInputs [line .cons (.coreCsexit false)] t₃ = .next t₄ ∧ t₄.core.imask = false ∧ t₄.violations = [] := by
  have ofCore : OfCoreA .cons := .inl rfl
  have may : mayStep s .cons = true := by simp [mayStep, heldByEntry, core, latency]
  have may₁ := mayStep_afterEnter ofCore may
  have may₂ := mayStep_afterEnter ofCore may₁
  have may₃ : mayStep (afterExit .cons true (afterEnter .cons (afterEnter .cons s))) .cons = true :=
    mayStep_of_closed ofCore may₂ rfl rfl rfl
  have outerToken : (afterEnter .cons s).results.cons = .doneToken 0 := by simp [afterEnter, core]
  exact ⟨_, _, _, _, run_csenter ofCore may, outerToken, run_csenter ofCore may₁, rfl,
    run_csexit ofCore may₂ rfl true, rfl, rfl, run_csexit ofCore may₃ rfl false, rfl, rfl⟩

/-- A section with nothing inside leaves the core as it was and reports nothing. -/
theorem empty_section {s : State} {a : Agent} (ofCore : OfCoreA a) (may : mayStep s a = true) :
    ∃ t, runInputs (criticalSectionFrom a s []) s = .next t ∧ t.core = s.core ∧ t.violations = [] := by
  refine ⟨afterExit a s.core.imask (afterEnter a s), ?run, rfl, rfl⟩
  case run =>
    calc runInputs ([line a .coreCsenter] ++ [line a (.coreCsexit s.core.imask)]) s
        = runInputs [line a (.coreCsexit s.core.imask)] (afterEnter a s) := runInputs_append _ _ (run_csenter ofCore may)
      _ = .next (afterExit a s.core.imask (afterEnter a s)) := run_csexit ofCore (mayStep_afterEnter ofCore may) rfl _

/-- Settles O54: the sections of the foreground step by step, the empty section, and of any other the exit that ends it. -/
theorem nestedSectionsRestore : Obligations.NestedSectionsRestore := by
  unfold Obligations.NestedSectionsRestore
  refine ⟨fun s => nested_sections, fun a s ofCore may => ⟨empty_section ofCore may, fun ops t e => ?restored⟩⟩
  case restored =>
    obtain ⟨u, _, exit⟩ := runInputs_append_next (xs := line a .coreCsenter :: ops) e
    exact imask_of_run_csexit exit

end Sys2Proof.Machine

/-! The statements of spec/40_fifo.md: the whole next state of each queue operation (R132 to R136), and the abstract single
slot that every operation implements (R137). -/

namespace Sys2Proof.Machine

/-! ### The two outcomes of a request, by the flag of its side (R131) -/

/-- A write at `full_w = 0` transfers (R133, R134). -/
theorem writeEdge_of_not_full {q : IcfId} {h : Hardware} (w : Word) (ready : fullW (h.icf q) = false) :
    writeEdge q (some w) h =
      (memWrite q w (h.setIcf q { shiftWriteSync (h.icf q) with wptr := (h.icf q).wptr ^^^ 1 }), true) := by
  simp [writeEdge, wrReady, ready]

/-- A write at `full_w = 1` only shifts the synchroniser (R133, R134). -/
theorem writeEdge_of_full {q : IcfId} {h : Hardware} (w : Word) (full : fullW (h.icf q) = true) :
    writeEdge q (some w) h = (h.setIcf q (shiftWriteSync (h.icf q)), false) := by
  simp [writeEdge, wrReady, full]

/-- A read at `empty_r = 0` transfers (R135). -/
theorem readEdge_of_not_empty {q : IcfId} {h : Hardware} (valid : emptyR (h.icf q) = false) :
    readEdge q true h =
      (h.setIcf q { shiftReadSync (h.icf q) with rptr := (h.icf q).rptr ^^^ 1 }, some (slotWord q h)) := by
  simp [readEdge, rdValid, valid]

/-- A read at `empty_r = 1` only shifts the synchroniser (R135). -/
theorem readEdge_of_empty {q : IcfId} {h : Hardware} (empty : emptyR (h.icf q) = true) :
    readEdge q true h = (h.setIcf q (shiftReadSync (h.icf q)), none) := by
  simp [readEdge, rdValid, empty]

/-! ### The requests (R133 to R135) -/

/-- Settles O15: the edge of either outcome, concluded with its result. -/
theorem icfWriteAcceptedOrHeld : Obligations.IcfWriteAcceptedOrHeld := by
  unfold Obligations.IcfWriteAcceptedOrHeld
  intro q w s ok
  rw [exec_icfWrite, blockingWrite]
  refine ⟨fun ready => ?accepted, fun full => ?held⟩
  case accepted => rw [writeEdge_of_not_full w ready]; exact conclude_tolerated _ _ _ _ ok
  case held => rw [writeEdge_of_full w full]; exact conclude_tolerated _ _ _ _ ok

/-- Settles O16: the edges of the blocking write, concluded with the bit that says whether the word was accepted. -/
theorem icfTrywriteAcceptedOrNot : Obligations.IcfTrywriteAcceptedOrNot := by
  unfold Obligations.IcfTrywriteAcceptedOrNot
  intro q w s ok
  rw [exec_icfTrywrite, probingWrite]
  refine ⟨fun ready => ?accepted, fun full => ?notAccepted⟩
  case accepted => rw [writeEdge_of_not_full w ready]; exact conclude_tolerated _ _ _ _ ok
  case notAccepted => rw [writeEdge_of_full w full]; exact conclude_tolerated _ _ _ _ ok

/-- Settles O17: the edge of either outcome, concluded with the word of the slot or `hold`. -/
theorem icfReadDeliveredOrHeld : Obligations.IcfReadDeliveredOrHeld := by
  unfold Obligations.IcfReadDeliveredOrHeld
  intro q s ok
  rw [exec_icfRead, blockingRead]
  refine ⟨fun valid => ?delivered, fun empty => ?held⟩
  case delivered => rw [readEdge_of_not_empty valid]; exact conclude_tolerated _ _ _ _ ok
  case held => rw [readEdge_of_empty empty]; exact conclude_tolerated _ _ _ _ ok

/-! ### The edges with no request (R132, R136) -/

/-- A writer that sees a free slot sees it free after the shift: what comes through the synchroniser is no older (R31). -/
theorem shiftWriteSync_fullW {f : Icf} (inv : icfInv f) (ready : fullW f = false) : fullW (shiftWriteSync f) = false := by
  have free := (occupied_eq_false_iff f).mp (free_of_fullW_eq_false inv ready)
  obtain ⟨_, _, steady⟩ := (icfInv_iff_of_free free).mp inv
  exact (fullW_eq_false_iff _).mpr (steady ((fullW_eq_false_iff f).mp ready))

/-- A reader that sees an occupied slot sees it occupied after the shift (R31). -/
theorem shiftReadSync_emptyR {f : Icf} (inv : icfInv f) (valid : emptyR f = false) : emptyR (shiftReadSync f) = false := by
  have occ := (occupied_eq_true_iff f).mp (occupied_of_emptyR_eq_false inv valid)
  obtain ⟨_, _, steady⟩ := (icfInv_iff_of_occupied occ).mp inv
  have seen : f.rq2 = f.wptr := (ptr_eq_toggle ((emptyR_eq_false_iff f).mp valid).symm).trans (ptr_eq_toggle occ).symm
  rw [emptyR_eq_false_iff, shiftReadSync_rptr, shiftReadSync_rq2, steady seen]
  exact occ.symm

/-- Settles O18: an edge with no request shifts the synchroniser of its side, and a clear flag is right and stays clear. -/
theorem icfTicksShiftSynchroniser : Obligations.IcfTicksShiftSynchroniser := by
  unfold Obligations.IcfTicksShiftSynchroniser
  intro q s
  refine ⟨fun ok => ?wtick, fun ok => ?rtick, fun inv => ⟨fun t e ready => ?full, fun t e valid => ?empty⟩⟩
  case wtick => rw [exec_icfWtick]; exact conclude_tolerated _ _ _ _ ok
  case rtick => rw [exec_icfRtick]; exact conclude_tolerated _ _ _ _ ok
  case full => simpa [exec_hardware e, writeEdge] using shiftWriteSync_fullW inv ready
  case empty => simpa [exec_hardware e, readEdge] using shiftReadSync_emptyR inv valid

/-! ### The abstract single slot (R30, R137) -/

theorem slot_of_free {q : IcfId} {h : Hardware} (free : occupied (h.icf q) = false) : slot q h = none := by
  simp [slot, free]

theorem slot_of_occupied {q : IcfId} {h : Hardware} (occ : occupied (h.icf q) = true) :
    slot q h = some (memRead q h) := by
  simp [slot, occ]

/-- The abstract slot depends on the two pointers and the stored word alone. -/
theorem slot_congr {q : IcfId} {h h' : Hardware} (occ : occupied (h'.icf q) = occupied (h.icf q))
    (stored : memRead q h' = memRead q h) : slot q h' = slot q h := by
  simp [slot, occ, stored]

/-- The slot of either queue has been written where it is occupied, of the invariant. -/
theorem HwInv.slot {h : Hardware} (inv : HwInv h) (q : IcfId) : slotInv q h := by
  cases q with
  | icf0 => exact inv.slot0
  | icf1 => exact inv.slot1

/-- What a delivered read returns is the stored word, where the slot has been written. -/
theorem memRead_eq_slotWord {q : IcfId} {h : Hardware} (written : (memRead q h).isSome = true) :
    memRead q h = some (slotWord q h) := by
  obtain ⟨w, stored⟩ := Option.isSome_iff_exists.mp written
  simp [slotWord, stored]

/-- One operation on the abstract slot, of the words it accepts and delivers: an accepted word fills a free slot, a delivered
word is the one that the slot held and leaves it free, and with neither the slot is kept (R137). -/
theorem QueueStep.implementsSlot {q : IcfId} {i : Instr} {h h' : Hardware} {acc del : List Word}
    (step : QueueStep q i h h' acc del) (inv : icfInv (h.icf q)) (written : slotInv q h) :
    (∀ w, acc = [w] → slot q h = none ∧ slot q h' = some (some w)) ∧
    (∀ w, del = [w] → slot q h = some (some w) ∧ slot q h' = none) ∧
    (acc = [] → del = [] → slot q h' = slot q h) := by
  cases step with
  | accept v _ _ ready icf stored acc_eq del_eq =>
    have free := free_of_fullW_eq_false inv ((wrReady_eq_true_iff _).mp ready)
    have occ : occupied (h'.icf q) = true := occupied_of_toggled_wptr free (by rw [icf]) (by rw [icf]; rfl)
    simp [slot_of_free free, slot_of_occupied occ, stored, acc_eq, del_eq]
  | deliver _ _ valid icf acc_eq del_eq =>
    have occ := occupied_of_emptyR_eq_false inv ((rdValid_eq_true_iff _).mp valid)
    have free : occupied (h'.icf q) = false := free_of_toggled_rptr occ (by rw [icf]; rfl) (by rw [icf])
    simp [slot_of_occupied occ, slot_of_free free, memRead_eq_slotWord (written occ), acc_eq, del_eq]
  | writeShift _ _ icf stored acc_eq del_eq | readShift _ _ icf stored acc_eq del_eq
  | other _ _ icf stored acc_eq del_eq =>
    have kept : slot q h' = slot q h := slot_congr (by simp [icf, occupied]) stored
    simp [kept, acc_eq, del_eq]

/-- Settles O21: each operation is a step of the queue, which under the invariant is a step of the abstract slot. -/
theorem icfImplementsSlot : Obligations.IcfImplementsSlot := by
  unfold Obligations.IcfImplementsSlot
  intro q op s t inv e
  exact (exec_queueStep q e).implementsSlot (inv.icf q) (inv.slot q)

end Sys2Proof.Machine

/-! The statements of spec/41_pwm.md on the operations of APWM: what each does where the table of R161 accepts it and where it
does not (R165 to R169), and how `PSTATE` advances (R161). -/

namespace Sys2Proof.Machine

/-! ### What is refused (R240) -/

theorem ignore_notRefusing {s : State} (tolerant : s.params.refusing = false) (v : Violation) :
    ignore s v = .next { s with results := s.results.give s.issuer (.ignored v), violations := [v] } := by
  simp [ignore_eq, tolerant]

theorem ignore_refusing {s : State} (refusing : s.params.refusing = true) (v : Violation) :
    ignore s v = .refused (.contract [v]) := by
  simp [ignore_eq, refusing]

/-- Reports of violations that the hardware cannot detect are refused where the parameters are strict, if there are any. -/
theorem any_refuses_of_undetectable {rs : List Report} (undetectable : ∀ r ∈ rs, r.always = false) (p : Params) :
    rs.any (refuses p) = true ↔ strictlyRefusing p = true ∧ rs ≠ [] := by
  cases rs with
  | nil => simp
  | cons r rest =>
    have same : ∀ x ∈ r :: rest, refuses p x = strictlyRefusing p := fun x mem => by
      simp [refuses, strictlyRefusing, undetectable x mem]
    simp only [List.any_eq_true, ne_eq, reduceCtorEq, not_false_eq_true, and_true]
    exact ⟨fun ⟨x, mem, e⟩ => same x mem ▸ e, fun e => ⟨r, List.mem_cons_self, (same r List.mem_cons_self).trans e⟩⟩

/-! ### The operations that the table of R161 does not accept -/

/-- The table of R161 does not accept operation `i` where `PSTATE` is `p`. -/
def NotAccepted (i : Instr) (p : PState) : Prop :=
  (p ≠ .uninit ∧ ∃ d t, i = .pwmCfg d t) ∨ (p ≠ .configured ∧ i = .pwmStart) ∨
    (p = .uninit ∧ ((∃ v, i = .pwmSetduty v) ∨ ∃ b, i = .pwmIrqen b))

/-- An operation that is not accepted is ignored, and V2 is what it reports (R161, R238). -/
theorem exec_notAccepted {i : Instr} {s : State} (notAccepted : NotAccepted i s.apwm.pstate) :
    exec i s = ignore s .v2 := by
  rcases notAccepted with ⟨p, d, t, rfl⟩ | ⟨p, rfl⟩ | ⟨p, ⟨v, rfl⟩ | ⟨b, rfl⟩⟩
  · exact if_pos p
  · exact if_pos p
  · exact if_pos p
  · exact if_pos p

theorem exec_notAccepted_tolerant {i : Instr} {s : State} (notAccepted : NotAccepted i s.apwm.pstate)
    (tolerant : s.params.refusing = false) :
    exec i s = .next { s with results := s.results.give s.issuer (.ignored .v2), violations := [.v2] } := by
  rw [exec_notAccepted notAccepted, ignore_notRefusing tolerant]

theorem exec_notAccepted_refusing {i : Instr} {s : State} (notAccepted : NotAccepted i s.apwm.pstate)
    (refusing : s.params.refusing = true) : exec i s = .refused (.contract [.v2]) := by
  rw [exec_notAccepted notAccepted, ignore_refusing refusing]

/-! ### The operations where they are accepted -/

theorem exec_pwmCfg_accepted {div top : Reg} {s : State} (uninit : s.apwm.pstate = .uninit) (top_ne : top ≠ 0)
    (div_ne : div ≠ 0) :
    exec (.pwmCfg div top) s =
      conclude s { s.toHardware with apwm := { s.apwm with top := top, div := div, pstate := .configured } }
        (scopeReports s.issuer (.pwmCfg div top)) .done := by
  simp only [exec, execPwmCfg, uninit, top_ne, div_ne, ne_eq, not_true_eq_false, or_self, if_false]

theorem exec_pwmCfg_reserved {div top : Reg} {s : State} (uninit : s.apwm.pstate = .uninit) (zero : top = 0 ∨ div = 0) :
    exec (.pwmCfg div top) s = ignore s .v3 := by
  simp only [exec, execPwmCfg, uninit, zero, ne_eq, not_true_eq_false, if_false, if_true]

theorem exec_pwmStart_accepted {s : State} (configured : s.apwm.pstate = .configured) :
    exec .pwmStart s =
      conclude s
        { s.toHardware with apwm := { s.apwm with pstate := .running, ctr := 0, pre := 0, ccAct := s.apwm.cc } }
        (scopeReports s.issuer .pwmStart) .done :=
  if_neg (not_not.mpr configured)

theorem exec_pwmSetduty_accepted {val : Reg} {s : State} (notUninit : s.apwm.pstate ≠ .uninit) :
    exec (.pwmSetduty val) s =
      conclude s { s.toHardware with apwm := { s.apwm with cc := val } }
        (operationReports s.issuer (.pwmSetduty val) (dutyReports val s)) .done :=
  if_neg notUninit

theorem exec_pwmIrqen_accepted {bit : Bool} {s : State} (notUninit : s.apwm.pstate ≠ .uninit) :
    exec (.pwmIrqen bit) s =
      conclude s { s.toHardware with apwm := { s.apwm with wrapIe := bit } } (scopeReports s.issuer (.pwmIrqen bit)) .done :=
  if_neg notUninit

/-! ### How the state machine advances (R161) -/

/-- An operation takes `PSTATE` one state on, as `PWM.CFG` or `PWM.START`, or leaves it. -/
theorem effect_pstate_cases (i : Instr) (h : Hardware) :
    (h.apwm.pstate = .uninit ∧ (effect i h).apwm.pstate = .configured ∧ ∃ d p, i = .pwmCfg d p) ∨
    (h.apwm.pstate = .configured ∧ (effect i h).apwm.pstate = .running ∧ i = .pwmStart) ∨
    (effect i h).apwm.pstate = h.apwm.pstate := by
  rcases effect_apwm_cases i h with ⟨div, top, rfl, uninit, _, _, e⟩ | ⟨rfl, configured, e⟩ | ⟨_, _, _, e⟩ | ⟨_, _, _, e⟩ |
    ⟨_, e⟩ | ⟨_, e⟩ | e
  · exact .inl ⟨uninit, by rw [e], div, top, rfl⟩
  · exact .inr (.inl ⟨configured, by rw [e], rfl⟩)
  all_goals exact .inr (.inr (by simp [e]))

/-- Once the block is configured no operation writes `TOP` or `DIV` (R33, R34). -/
theorem effect_keeps_top_div (i : Instr) {h : Hardware} (notUninit : h.apwm.pstate ≠ .uninit) :
    (effect i h).apwm.top = h.apwm.top ∧ (effect i h).apwm.div = h.apwm.div := by
  rcases effect_apwm_cases i h with ⟨_, _, _, uninit, _⟩ | ⟨_, _, e⟩ | ⟨_, _, _, e⟩ | ⟨_, _, _, e⟩ | ⟨_, e⟩ | ⟨_, e⟩ | e
  · exact absurd uninit notUninit
  all_goals simp [e]

/-- Settles O33: `effect` takes `PSTATE` one state on or leaves it, and what is not accepted is ignored with V2. -/
theorem pwmStateOnlyAdvances : Obligations.PwmStateOnlyAdvances := by
  unfold Obligations.PwmStateOnlyAdvances
  intro i s t e
  refine ⟨?grows, ?named, fun notUninit => ?fixed, fun notAccepted => ?ignored⟩
  case grows =>
    rw [exec_hardware e]
    rcases effect_pstate_cases i s.toHardware with ⟨old, new, _⟩ | ⟨old, new, _⟩ | same
    · rw [old, new]; decide
    · rw [old, new]; decide
    · rw [same]
  case named =>
    rw [exec_hardware e]
    intro changed
    rcases effect_pstate_cases i s.toHardware with cfg | start | same
    · exact .inl cfg
    · exact .inr start
    · exact absurd same changed
  case fixed =>
    rw [exec_hardware e]
    exact effect_keeps_top_div i notUninit
  case ignored =>
    rw [exec_notAccepted notAccepted] at e
    rw [ignore_next e]
    exact ⟨rfl, results_of_give _ _ _⟩

/-! ### The whole next state (R165 to R169) -/

/-- Settles O27: accepted it is concluded, in another state it is not accepted, and a reserved operand is ignored with V3. -/
theorem pwmCfgOnce : Obligations.PwmCfgOnce := by
  unfold Obligations.PwmCfgOnce
  intro div top s
  have twice (p : s.apwm.pstate ≠ .uninit) : NotAccepted (.pwmCfg div top) s.apwm.pstate := .inl ⟨p, div, top, rfl⟩
  refine ⟨fun uninit top_ne div_ne ok => ?accepted, fun p => exec_notAccepted_tolerant (twice p),
    fun p => exec_notAccepted_refusing (twice p), fun uninit zero tolerant => ?reserved,
    fun uninit zero refusing => ?reservedRefused⟩
  case accepted => rw [exec_pwmCfg_accepted uninit top_ne div_ne]; exact conclude_tolerated _ _ _ _ ok
  case reserved => rw [exec_pwmCfg_reserved uninit zero, ignore_notRefusing tolerant]
  case reservedRefused => rw [exec_pwmCfg_reserved uninit zero, ignore_refusing refusing]

/-- The output is high exactly where the carrier runs and `CTR < CC_ACT` (R41, R170). -/
theorem pwmOut_eq_true_iff (a : Apwm) : pwmOut a = true ↔ a.pstate = .running ∧ a.ctr.toNat < a.ccAct.toNat := by
  simp [pwmOut, BitVec.ult]

/-- At the start the output is high exactly where a duty has been written (R166). -/
theorem pwmOut_start (a : Apwm) :
    pwmOut { a with pstate := .running, ctr := 0, pre := 0, ccAct := a.cc } = decide (a.cc ≠ 0) := by
  rw [Bool.eq_iff_iff, pwmOut_eq_true_iff, decide_eq_true_eq]
  exact ⟨fun ⟨_, lt⟩ zero => by simp [zero] at lt, fun ne => ⟨rfl, toNat_pos_of_ne_zero ne⟩⟩

/-- Settles O28: accepted it is concluded, and in any state but `CONFIGURED` it is not accepted. -/
theorem pwmStartRuns : Obligations.PwmStartRuns := by
  unfold Obligations.PwmStartRuns
  intro s
  have elsewhere (p : s.apwm.pstate ≠ .configured) : NotAccepted .pwmStart s.apwm.pstate := .inr (.inl ⟨p, rfl⟩)
  refine ⟨fun configured ok => ⟨?accepted, pwmOut_start s.apwm⟩, fun p => exec_notAccepted_tolerant (elsewhere p),
    fun p => exec_notAccepted_refusing (elsewhere p)⟩
  case accepted => rw [exec_pwmStart_accepted configured]; exact conclude_tolerated _ _ _ _ ok

/-- What the duty write raises, as violations: V4 above `TOP`, V5 in the foreground with the mask open (R167). -/
theorem dutyReports_violations (val : Reg) (s : State) :
    (dutyReports val s).map (·.violation) =
      (if s.apwm.top.toNat < val.toNat then [.v4] else []) ++
        (if s.issuer = .cons ∧ s.core.imask = false then [.v5] else []) := by
  simp only [dutyReports, BitVec.ult, decide_eq_true_eq, List.map_append, apply_ite (List.map _), List.map_cons, List.map_nil]

/-- The hardware cannot detect what a duty write reports: V4, V5 and the issuer (R240). -/
theorem setdutyReports_undetectable (val : Reg) (s : State) :
    ∀ r ∈ operationReports s.issuer (.pwmSetduty val) (dutyReports val s), r.always = false := by
  intro r mem
  by_cases raisesNone : dutyReports val s = []
  · rw [raisesNone, operationReports_nil, scopeReports, List.mem_ite_nil_left, List.mem_singleton] at mem
    obtain ⟨_, rfl⟩ := mem
    rfl
  · rw [operationReports_own raisesNone, dutyReports, List.mem_append] at mem
    simp only [List.mem_ite_nil_right, List.mem_singleton] at mem
    rcases mem with ⟨_, rfl⟩ | ⟨_, rfl⟩
    · rfl
    · rfl

/-- Settles O29: accepted it is concluded with what it reports, none of which is refused but by a strict model. -/
theorem pwmSetdutyWritesCompare : Obligations.PwmSetdutyWritesCompare := by
  unfold Obligations.PwmSetdutyWritesCompare
  intro val s
  have early (p : s.apwm.pstate = .uninit) : NotAccepted (.pwmSetduty val) s.apwm.pstate := .inr (.inr ⟨p, .inl ⟨val, rfl⟩⟩)
  have refusedIff := any_refuses_of_undetectable (setdutyReports_undetectable val s) s.params
  rw [← dutyReports_violations, ← operationReports_violations]
  refine ⟨fun notUninit quiet => ?accepted, fun notUninit strict reported => ?refused,
    fun p => exec_notAccepted_tolerant (early p), fun p => exec_notAccepted_refusing (early p)⟩
  case accepted =>
    rw [exec_pwmSetduty_accepted notUninit, conclude, if_neg]
    intro refused
    obtain ⟨strict, reported⟩ := refusedIff.mp refused
    rcases quiet with lax | nothing
    · exact absurd strict (Bool.eq_false_iff.mp lax)
    · exact reported (List.map_eq_nil_iff.mp nothing)
  case refused =>
    rw [exec_pwmSetduty_accepted notUninit]
    exact conclude_refused _ _ _ _ (refusedIff.mpr ⟨strict, fun nothing => reported (by rw [nothing]; rfl)⟩)

/-- Settles O30: accepted it is concluded, and in `UNINIT` it is not accepted. -/
theorem pwmIrqenMasksLine : Obligations.PwmIrqenMasksLine := by
  unfold Obligations.PwmIrqenMasksLine
  intro bit s
  have early (p : s.apwm.pstate = .uninit) : NotAccepted (.pwmIrqen bit) s.apwm.pstate := .inr (.inr ⟨p, .inr ⟨bit, rfl⟩⟩)
  refine ⟨fun notUninit ok => ⟨?accepted, rfl⟩, fun p => exec_notAccepted_tolerant (early p),
    fun p => exec_notAccepted_refusing (early p)⟩
  case accepted => rw [exec_pwmIrqen_accepted notUninit]; exact conclude_tolerated _ _ _ _ ok

/-- Settles O31: it is concluded in every `PSTATE`, and `HAND` is the one issuer that R245 permits. -/
theorem pwmIrqclrClearsFlag : Obligations.PwmIrqclrClearsFlag := by
  unfold Obligations.PwmIrqclrClearsFlag
  intro s
  refine ⟨fun ok => ⟨conclude_tolerated _ _ _ _ ok, rfl⟩, fun notHand => ?scope⟩
  case scope => simp [issuerViolations, permits, scopeViolation, notHand]

end Sys2Proof.Machine

/-! The carrier: one tick (R171), the period (R172) and its output (R170). -/

namespace Sys2Proof.Machine

/-! ### One tick (R171) -/

theorem tick_of_notRunning {a : Apwm} (rest : a.pstate ≠ .running) : tick a = a := by
  rw [tick, if_neg rest]

theorem tick_of_divider {a : Apwm} (run : a.pstate = .running) (notLast : a.pre ≠ a.div - 1) :
    tick a = { a with pre := a.pre + 1 } := by
  rw [tick, if_pos run, if_neg notLast]

theorem tick_of_counter {a : Apwm} (run : a.pstate = .running) (last : a.pre = a.div - 1) (notTop : a.ctr ≠ a.top - 1) :
    tick a = { a with pre := 0, ctr := a.ctr + 1 } := by
  rw [tick, if_pos run, if_pos last, if_neg notTop]

theorem tick_of_wrap {a : Apwm} (run : a.pstate = .running) (last : a.pre = a.div - 1) (atTop : a.ctr = a.top - 1) :
    tick a = { a with pre := 0, ctr := 0, ccAct := a.cc, wrapIf := true } := by
  rw [tick, if_pos run, if_pos last, if_pos atTop]

/-- Settles O32: the tick is concluded with what `tick` leaves, branch by branch. -/
theorem pwmTickCounts : Obligations.PwmTickCounts := by
  unfold Obligations.PwmTickCounts
  intro s ok after
  have ticked : exec .pwmTick s = after (tick s.apwm) := conclude_tolerated _ _ _ _ ok
  rw [ticked]
  refine ⟨fun rest => ?rest, fun run notLast => ?divider, fun run last notTop => ?counter, fun run last atTop => ?wrap⟩
  case rest => rw [tick_of_notRunning rest]
  case divider => rw [tick_of_divider run notLast]
  case counter => rw [tick_of_counter run last notTop]
  case wrap => rw [tick_of_wrap run last atTop]

/-- One tick of `pclk` answers a next state, whatever the parameters refuse, and changes APWM alone. -/
theorem runInputs_tickLine (s : State) :
    ∃ t, runInputs [tickLine] s = .next t ∧ t.toHardware = { s.toHardware with apwm := tick s.apwm } := by
  have step : runInputs [tickLine] s = exec .pwmTick { s with issuer := .pclk } := runInputs_line rfl _
  simp only [step, exec, execPwmTick, scopeReports_permitted (a := .pclk) (i := .pwmTick) rfl, conclude_nil]
  exact ⟨_, rfl, rfl⟩

/-- A run of `k` ticks changes APWM alone. -/
theorem runInputs_ticks (k : Nat) (s : State) :
    ∃ t, runInputs (List.replicate k tickLine) s = .next t ∧
      t.toHardware = { s.toHardware with apwm := tick^[k] s.apwm } := by
  induction k generalizing s with
  | zero => exact ⟨s, rfl, rfl⟩
  | succ k ih =>
    obtain ⟨u, first, hardware⟩ := runInputs_tickLine s
    obtain ⟨t, rest, hardware'⟩ := ih u
    refine ⟨t, (runInputs_append [tickLine] _ first).trans rest, ?ticked⟩
    case ticked => rw [hardware', hardware, Function.iterate_succ_apply]

/-! ### The period (R171, R172) -/

/-- APWM at tick `k` of a period: the counter at `k / DIV`, the divider at `k % DIV`. -/
def atTick (a : Apwm) (k : Nat) : Apwm :=
  { a with ctr := BitVec.ofNat 16 (k / a.div.toNat), pre := BitVec.ofNat 16 (k % a.div.toNat) }

/-- A count below a register is the register's last value exactly where the next count is no longer below it. -/
theorem ofNat_eq_last_iff {n : Nat} {bound : Reg} (lt : n < bound.toNat) :
    BitVec.ofNat 16 n = bound - 1 ↔ n + 1 = bound.toNat := by
  have small := bound.isLt
  rw [← BitVec.toNat_inj, BitVec.toNat_ofNat, Nat.mod_eq_of_lt (lt.trans small)]
  bv_omega

/-- The divider's last tick: the next one begins a step of the counter. -/
theorem divMod_succ_of_last {k d : Nat} (last : k % d + 1 = d) : (k + 1) / d = k / d + 1 ∧ (k + 1) % d = 0 := by
  refine (Nat.div_mod_unique (by omega)).mpr ⟨?_, by omega⟩
  have := Nat.mod_add_div k d
  rw [Nat.mul_add]
  omega

/-- Any other tick of the divider: the next one is of the same step of the counter. -/
theorem divMod_succ_of_notLast {k d : Nat} (notLast : k % d + 1 < d) :
    (k + 1) / d = k / d ∧ (k + 1) % d = k % d + 1 := by
  refine (Nat.div_mod_unique (by omega)).mpr ⟨?_, notLast⟩
  have := Nat.mod_add_div k d
  omega

section Period

variable {a : Apwm} {k : Nat}

/-- Inside a period the divider is at its last value exactly where the next tick begins a step of the counter. -/
theorem atTick_pre_eq_last_iff (lt : k < a.div.toNat * a.top.toNat) :
    (atTick a k).pre = a.div - 1 ↔ k % a.div.toNat + 1 = a.div.toNat :=
  ofNat_eq_last_iff (Nat.mod_lt k (Nat.pos_of_mul_pos_right (Nat.zero_lt_of_lt lt)))

/-- Inside a period the counter is at its last value exactly in the last step. -/
theorem atTick_ctr_eq_last_iff (lt : k < a.div.toNat * a.top.toNat) :
    (atTick a k).ctr = a.top - 1 ↔ k / a.div.toNat + 1 = a.top.toNat :=
  ofNat_eq_last_iff (Nat.div_lt_of_lt_mul lt)

/-- A period starts with both counters at 0. -/
theorem atTick_zero (ctr : a.ctr = 0) (pre : a.pre = 0) : atTick a 0 = a := by
  cases a
  simp_all [atTick]

/-- A tick before the last of a period leads to the next tick of it. -/
theorem tick_atTick (run : a.pstate = .running) (lt : k + 1 < a.div.toNat * a.top.toNat) :
    tick (atTick a k) = atTick a (k + 1) := by
  have inside : k < a.div.toNat * a.top.toNat := Nat.lt_of_succ_lt lt
  have pre_lt : k % a.div.toNat < a.div.toNat := Nat.mod_lt k (Nat.pos_of_mul_pos_right (Nat.zero_lt_of_lt lt))
  have running : (atTick a k).pstate = .running := run
  by_cases last : k % a.div.toNat + 1 = a.div.toNat
  · obtain ⟨ctr, pre⟩ := divMod_succ_of_last last
    have notTop : k / a.div.toNat + 1 ≠ a.top.toNat := ctr ▸ (Nat.div_lt_of_lt_mul lt).ne
    rw [tick_of_counter running ((atTick_pre_eq_last_iff inside).mpr last) (mt (atTick_ctr_eq_last_iff inside).mp notTop)]
    simp [atTick, ctr, pre, BitVec.ofNat_add]
  · obtain ⟨ctr, pre⟩ := divMod_succ_of_notLast (Nat.lt_of_le_of_ne pre_lt last)
    rw [tick_of_divider running (mt (atTick_pre_eq_last_iff inside).mp last)]
    simp [atTick, ctr, pre, BitVec.ofNat_add]

/-- The last tick of a period wraps: the counters are 0, the compare value is loaded and the flag set. -/
theorem tick_atTick_last (run : a.pstate = .running) (last : k + 1 = a.div.toNat * a.top.toNat) :
    tick (atTick a k) = { a with ctr := 0, pre := 0, ccAct := a.cc, wrapIf := true } := by
  have inside : k < a.div.toNat * a.top.toNat := by omega
  have div_pos : 0 < a.div.toNat := Nat.pos_of_mul_pos_right (Nat.zero_lt_of_lt inside)
  have lastDivider : k % a.div.toNat + 1 = a.div.toNat := by
    by_contra notLast
    obtain ⟨_, pre⟩ := divMod_succ_of_notLast (Nat.lt_of_le_of_ne (Nat.mod_lt k div_pos) notLast)
    rw [last, Nat.mul_mod_right] at pre
    omega
  have lastCounter : k / a.div.toNat + 1 = a.top.toNat := by
    obtain ⟨ctr, _⟩ := divMod_succ_of_last lastDivider
    rw [← ctr, last, Nat.mul_div_cancel_left _ div_pos]
  have running : (atTick a k).pstate = .running := run
  exact tick_of_wrap running ((atTick_pre_eq_last_iff inside).mpr lastDivider)
    ((atTick_ctr_eq_last_iff inside).mpr lastCounter)

/-- From the start of a period, `k` ticks lead to tick `k` of it. -/
theorem tick_iterate_eq_atTick (run : a.pstate = .running) (ctr : a.ctr = 0) (pre : a.pre = 0)
    (lt : k < a.div.toNat * a.top.toNat) : tick^[k] a = atTick a k := by
  induction k with
  | zero => exact (atTick_zero ctr pre).symm
  | succ k ih => rw [Function.iterate_succ_apply', ih (Nat.lt_of_succ_lt lt), tick_atTick run lt]

/-- A whole period of ticks ends in the wrap. -/
theorem tick_iterate_period (run : a.pstate = .running) (top_ne : a.top ≠ 0) (div_ne : a.div ≠ 0) (ctr : a.ctr = 0)
    (pre : a.pre = 0) :
    tick^[a.div.toNat * a.top.toNat] a = { a with ctr := 0, pre := 0, ccAct := a.cc, wrapIf := true } := by
  obtain ⟨k, last⟩ : ∃ k, a.div.toNat * a.top.toNat = k + 1 :=
    Nat.exists_eq_add_one.mpr (Nat.mul_pos (toNat_pos_of_ne_zero div_ne) (toNat_pos_of_ne_zero top_ne))
  rw [last, Function.iterate_succ_apply', tick_iterate_eq_atTick run ctr pre (by omega), tick_atTick_last run last.symm]

/-- At tick `k` of a period the counter is `k / DIV`: each of its values holds for `DIV` ticks (R170). -/
theorem atTick_ctr_toNat (lt : k < a.div.toNat * a.top.toNat) : (atTick a k).ctr.toNat = k / a.div.toNat :=
  Nat.mod_eq_of_lt ((Nat.div_lt_of_lt_mul lt).trans a.top.isLt)

/-- At tick `k` of a period the output is high for the first `min(CC_ACT, TOP) × DIV` ticks (R170). -/
theorem pwmOut_atTick_iff (run : a.pstate = .running) (lt : k < a.div.toNat * a.top.toNat) :
    pwmOut (atTick a k) = true ↔ k < min a.ccAct.toNat a.top.toNat * a.div.toNat := by
  have div_pos : 0 < a.div.toNat := Nat.pos_of_mul_pos_right (Nat.zero_lt_of_lt lt)
  have below : k / a.div.toNat < a.top.toNat := Nat.div_lt_of_lt_mul lt
  rw [pwmOut_eq_true_iff, atTick_ctr_toNat lt, ← Nat.div_lt_iff_lt_mul div_pos, lt_min_iff]
  exact ⟨fun ⟨_, high⟩ => ⟨high, below⟩, fun ⟨high, _⟩ => ⟨run, high⟩⟩

end Period

/-- Settles O34: a run of ticks iterates `tick`, which goes through the ticks of the period and then wraps. -/
theorem pwmPeriodExact : Obligations.PwmPeriodExact := by
  unfold Obligations.PwmPeriodExact
  intro s run top_ne div_ne ctr pre
  refine ⟨fun k lt => ?inside, ?wrap⟩
  case inside =>
    obtain ⟨t, ticks, hardware⟩ := runInputs_ticks k s
    exact ⟨t, ticks, by rw [hardware, tick_iterate_eq_atTick run ctr pre lt]; rfl⟩
  case wrap =>
    obtain ⟨t, ticks, hardware⟩ := runInputs_ticks (s.apwm.div.toNat * s.apwm.top.toNat) s
    exact ⟨t, ticks, by rw [hardware, tick_iterate_period run top_ne div_ne ctr pre]⟩

/-- Settles O35: the output compares the counter, which a run of ticks takes through the ticks of the period. -/
theorem pwmOutputProportional : Obligations.PwmOutputProportional := by
  unfold Obligations.PwmOutputProportional
  refine ⟨pwmOut_eq_true_iff, fun s run _ _ ctr pre k lt => ?period⟩
  case period =>
    obtain ⟨t, ticks, hardware⟩ := runInputs_ticks k s
    have apwm : t.apwm = atTick s.apwm k := by rw [hardware, tick_iterate_eq_atTick run ctr pre lt]
    exact ⟨t, ticks, by rw [apwm, atTick_ctr_toNat lt], by rw [apwm, pwmOut_atTick_iff run lt]⟩

end Sys2Proof.Machine

/-! The duty value of a sample (R176, R177), and one emission of it (R178). -/

namespace Sys2Proof.Machine

/-- `rescale` of any word is 8 times its low byte (R177 (a), (d)). -/
theorem rescale_toNat (w : Word) : (rescale w).toNat = 8 * (wordSample w).toNat := by
  have mask : (w.toNat <<< 4 % 2 ^ 32) &&& 0xFFF = w.toNat <<< 4 % 2 ^ 32 % 2 ^ 12 :=
    Nat.and_two_pow_sub_one_eq_mod _ 12
  simp only [rescale, wordSample, BitVec.toNat_ushiftRight, BitVec.toNat_and, BitVec.toNat_shiftLeft, BitVec.toNat_ofNat,
    BitVec.extractLsb'_toNat, Nat.shiftRight_eq_div_pow]
  rw [show 0xFFF % 2 ^ 32 = 0xFFF from rfl, mask, Nat.shiftLeft_eq]
  omega

/-- The sample of the word that carries it (R72). -/
theorem wordSample_sampleWord (v : Sample) : wordSample (sampleWord v) = v := by
  have := v.isLt
  rw [← BitVec.toNat_inj, wordSample, sampleWord, BitVec.extractLsb'_toNat, BitVec.zeroExtend_eq_setWidth,
    BitVec.toNat_setWidth]
  omega

/-- `rescale` of a sample is 8 times it (R177 (a)). -/
theorem rescale_sampleWord_toNat (v : Sample) : (rescale (sampleWord v)).toNat = 8 * v.toNat := by
  rw [rescale_toNat, wordSample_sampleWord]

/-- The duty value of a sample is 8 times it (R177 (a)). -/
theorem sampleDuty_eq (v : Sample) : sampleDuty v = BitVec.ofNat 16 (8 * v.toNat) := by
  rw [← rescale_sampleWord_toNat]
  rfl

theorem sampleDuty_toNat (v : Sample) : (sampleDuty v).toNat = 8 * v.toNat := by
  have := v.isLt
  rw [sampleDuty_eq, BitVec.toNat_ofNat]
  omega

/-- Settles O38: every law of `rescale` follows from (a) and (d), and the selected values are evaluated. -/
theorem rescaleLaws : Obligations.RescaleLaws := by
  unfold Obligations.RescaleLaws
  refine ⟨fun v => ⟨rescale_sampleWord_toNat v, sampleDuty_toNat v⟩, fun v => ⟨?most, ?multiple⟩, fun u v lt => ?increasing,
    rescale_toNat, by decide⟩
  case most =>
    have := v.isLt
    rw [rescale_sampleWord_toNat]
    omega
  case multiple =>
    rw [rescale_sampleWord_toNat]
    exact Nat.dvd_mul_right 8 _
  case increasing =>
    rw [rescale_sampleWord_toNat, rescale_sampleWord_toNat]
    omega

/-- The state after `PWM.SETDUTY val` of the foreground inside the contract (R167). -/
def afterSetduty (val : Reg) (s : State) : State :=
  { s with
    apwm := { s.apwm with cc := val }, issuer := .cons, results := s.results.give .cons .done, violations := [] }

/-- Inside a section the foreground writes a duty up to `TOP` and reports nothing (R167, R235). -/
theorem run_setduty {val : Reg} {s : State} (may : mayStep s .cons = true) (notUninit : s.apwm.pstate ≠ .uninit)
    (closed : s.core.imask = true) (le : val.toNat ≤ s.apwm.top.toNat) :
    runInputs [line .cons (.pwmSetduty val)] s = .next (afterSetduty val s) := by
  have quiet : dutyReports val { s with issuer := .cons } = [] := by
    simp [dutyReports, BitVec.ult, closed, Nat.not_lt.mpr le]
  rw [runInputs_line may, exec_pwmSetduty_accepted (s := { s with issuer := .cons }) notUninit, quiet, operationReports_nil,
    scopeReports_permitted (a := .cons) (i := .pwmSetduty val) rfl, conclude_nil]
  rfl

@[simp] theorem afterEnter_apwm (a : Agent) (s : State) : (afterEnter a s).apwm = s.apwm := rfl

/-- A duty write of the foreground in a section of its own runs inside the contract (R167, R178, R213, R214). -/
theorem run_guarded_setduty {val : Reg} {s : State} (may : mayStep s .cons = true) (notUninit : s.apwm.pstate ≠ .uninit)
    (le : val.toNat ≤ s.apwm.top.toNat) :
    runInputs (criticalSection .cons false [line .cons (.pwmSetduty val)]) s =
      .next (afterExit .cons false (afterSetduty val (afterEnter .cons s))) := by
  have ofCore : OfCoreA .cons := .inl rfl
  have entered := mayStep_afterEnter ofCore may
  have written : mayStep (afterSetduty val (afterEnter .cons s)) .cons = true := mayStep_of_closed ofCore entered rfl rfl rfl
  have notUninit' : (afterEnter .cons s).apwm.pstate ≠ .uninit := by rwa [afterEnter_apwm]
  have le' : val.toNat ≤ (afterEnter .cons s).apwm.top.toNat := by rwa [afterEnter_apwm]
  have inside : runInputs (line .cons .coreCsenter :: [line .cons (.pwmSetduty val)]) s =
      .next (afterSetduty val (afterEnter .cons s)) :=
    (runInputs_append [line .cons .coreCsenter] _ (run_csenter ofCore may)).trans
      (run_setduty entered notUninit' rfl le')
  exact (runInputs_append _ _ inside).trans (run_csexit ofCore written rfl false)

/-- Settles O36: an emission is a guarded duty write, and 8 times a sample is at most 2040. -/
theorem emissionWritesDuty : Obligations.EmissionWritesDuty := by
  unfold Obligations.EmissionWritesDuty
  intro v s running core latency top
  have may : mayStep s .cons = true := by simp [mayStep, heldByEntry, core, latency]
  have le : (sampleDuty v).toNat ≤ s.apwm.top.toNat := by
    have := v.isLt
    rw [sampleDuty_toNat]
    omega
  refine ⟨_, run_guarded_setduty may (by simp [running]) le, ?duty, ?core, rfl⟩
  case duty => rw [← sampleDuty_eq]; rfl
  case core => simp [afterExit, afterSetduty, afterEnter, core]

end Sys2Proof.Machine

/-! The statements of spec/42_button.md: the whole next state of each button operation (R192 to R194), and one event for each
press along any sequence of samples (R195, R198). -/

namespace Sys2Proof.Machine

/-! ### The operations (R192 to R194) -/

theorem exec_btnSample (j : BtnId) (bit : Bool) (s : State) :
    exec (.btnSample j bit) s = sampleButton j bit (.btnSample j bit) s := by cases j <;> rfl

theorem permits_btnSample (j : BtnId) (bit : Bool) : permits (.bclk j) (.btnSample j bit) = true := by cases j <;> rfl

/-- A sample toggles `PLAY` at an edge of BTN0, and otherwise leaves it (R192, R197). -/
theorem sampleStep_play (j : BtnId) (bit : Bool) (h : Hardware) :
    (sampleStep j bit h).play = if j = .btn0 ∧ edgeNow (h.btn j) = true then toggle h.play else h.play := by
  cases j with
  | btn0 => simp [sampleStep]
  | btn1 => rfl

/-- Settles O39: a tolerated sample is concluded, and each field is what `sampleStep` leaves of it. -/
theorem btnSampleDetectsEdge : Obligations.BtnSampleDetectsEdge := by
  unfold Obligations.BtnSampleDetectsEdge
  intro j bit s ok b p edge
  obtain ⟨detector, mem, icf, apwm, core⟩ := sampleStep_frame j bit s.toHardware
  exact ⟨_, (exec_btnSample j bit s).trans (conclude_tolerated _ _ _ _ ok), detector,
    sampleStep_play j bit s.toHardware, rfl, rfl, fun k other => sampleStep_btn_other other bit s.toHardware,
    mem, icf .icf0, icf .icf1, apwm, core, rfl, rfl, rfl, rfl⟩

/-- Settles O40: a tolerated read is concluded on the hardware it found. -/
theorem btnReadReturnsFlags : Obligations.BtnReadReturnsFlags := by
  unfold Obligations.BtnReadReturnsFlags
  exact fun s => ⟨conclude_tolerated s s.toHardware .btn0Read _, conclude_tolerated s s.toHardware .btn1Read _⟩

/-- Settles O41: a tolerated clear is concluded on the hardware with the latch of its button at 0. -/
theorem btnClearClearsLatch : Obligations.BtnClearClearsLatch := by
  unfold Obligations.BtnClearClearsLatch
  exact fun s => ⟨conclude_tolerated s _ .btn0Clear .done, conclude_tolerated s _ .btn1Clear .done⟩

/-! ### The presses in a sequence of samples (R195) -/

/-- The presses that a button recognises in the samples of `pins`: the runs of lows in the levels that leave its
synchroniser (R195). -/
def pressCount (b : Btn) (pins : List Bool) : Nat := lowRuns b.wasDown (leavingLevels b pins)

/-- A level begins a run of lows where it is low and the level before it was not. -/
theorem lowRuns_cons (down pin : Bool) (rest : List Bool) :
    lowRuns down (pin :: rest) = (logicalLevel pin && !down).toNat + lowRuns (logicalLevel pin) rest := by
  cases pin with
  | true => exact (Nat.zero_add _).symm
  | false => cases down <;> rfl

/-- At a sample `S2` leaves the synchroniser, and the later levels leave the shifted one (R192 (a)). -/
theorem leavingLevels_cons (b : Btn) (bit : Bool) (pins : List Bool) :
    leavingLevels b (bit :: pins) = b.s2 :: leavingLevels (sampleBtn bit b) pins := rfl

/-- A sample recognises a press exactly at an edge, and takes the detector on to the later samples. -/
theorem pressCount_cons (b : Btn) (bit : Bool) (pins : List Bool) :
    pressCount b (bit :: pins) = (edgeNow b).toNat + pressCount (sampleBtn bit b) pins := by
  rw [pressCount, leavingLevels_cons, lowRuns_cons]
  rfl

/-- A sample shows an event exactly when its result says so: `r[0] = edge` (R105, R192). -/
theorem pressEvent_length (j : BtnId) (bit edge level : Bool) :
    (pressEvent j (.btnSample j bit) (.doneSample (sampleResult edge level))).length = edge.toNat := by
  cases j <;> cases edge <;> cases level <;> rfl

/-- A sample of the button's own clock answers a next state, whatever the parameters refuse (R192, R245). -/
theorem sampleLine_opStep (j : BtnId) (bit : Bool) (s : State) :
    ∃ u, OpStep (sampleLine j bit) (.btnSample j bit) s u ∧ u.toHardware = sampleStep j bit s.toHardware ∧
      (pressEvent j (.btnSample j bit) (u.results.of u.issuer)).length = (edgeNow (s.toHardware.btn j)).toNat := by
  obtain ⟨u, executed⟩ : ∃ u, exec (.btnSample j bit) { s with issuer := .bclk j } = .next u :=
    ⟨_, (exec_btnSample j bit _).trans (conclude_tolerated _ _ _ _ (.inl (permits_btnSample j bit)))⟩
  have applied : applyInput (sampleLine j bit) s = .next u :=
    (applyInput_encode _ _ s).trans
      ((present_of_mayPresent (mayPresent_of_mayStep (a := .bclk j) rfl _)).trans executed)
  have op : inputOp (sampleLine j bit) = some (.btnSample j bit) := by
    simp [inputOp, sampleLine, line, decode_encode, Except.toOption]
  have issuer : u.issuer = .bclk j := exec_issuer executed
  obtain ⟨hardware, result⟩ := conclude_shows ((exec_btnSample j bit _).symm.trans executed)
  exact ⟨u, ⟨applied, op, by rwa [issuer]⟩, hardware, by rw [result]; exact pressEvent_length j bit _ _⟩

/-- A run of samples shows as many events as its levels have presses, and toggles `PLAY` once for each on BTN0: at each
sample the event, the run of lows that begins and the toggle have one condition, the edge. -/
theorem runInputs_samples (j : BtnId) (pins : List Bool) (s : State) :
    ∃ t, runInputs (pins.map (sampleLine j)) s = .next t ∧
      (shown (pressEvent j) (pins.map (sampleLine j)) s).length = pressCount (s.toHardware.btn j) pins ∧
      t.play = if j = .btn0 then toggle^[pressCount (s.toHardware.btn j) pins] s.play else s.play := by
  induction pins generalizing s with
  | nil => exact ⟨s, rfl, rfl, (ite_self s.play).symm⟩
  | cons bit pins ih =>
    obtain ⟨u, step, hardware, event⟩ := sampleLine_opStep j bit s
    obtain ⟨t, run, events, play⟩ := ih u
    have detector : u.toHardware.btn j = sampleBtn bit (s.toHardware.btn j) := by simp [hardware]
    have played : u.play = if j = .btn0 ∧ edgeNow (s.toHardware.btn j) = true then toggle s.play else s.play := by
      rw [hardware, sampleStep_play]
    rw [detector] at events play
    refine ⟨t, ?runs, ?events, ?toggles⟩
    case runs => simp only [List.map_cons, runInputs, step.applied, run]
    case events => rw [List.map_cons, step.shown_cons, List.length_append, event, events, pressCount_cons]
    case toggles =>
      rw [play, played, pressCount_cons]
      cases j with
      | btn0 => cases edgeNow (s.toHardware.btn .btn0) <;> simp [Nat.add_comm 1]
      | btn1 => rfl

/-- Settles O42: the statement is what a run of samples does, with `pressCount` written out. -/
theorem oneEventPerPress : Obligations.OneEventPerPress := by
  unfold Obligations.OneEventPerPress
  exact runInputs_samples

end Sys2Proof.Machine

/-! The statements of spec/43_core.md: which agent has a step (R210), the whole next state of each operation of CORE (R211 to
R216), the two forms of the handler (R217), and what a wait sees (R211, R212). -/

namespace Sys2Proof.Machine

/-! ### Which step exists (R210, R215, R216, R241) -/

theorem entryEnabled_eq_true_iff (h : Hardware) :
    entryEnabled h = true ↔
      h.apwm.wrapIf = true ∧ h.apwm.wrapIe = true ∧ h.core.imask = false ∧ h.core.inh = false := by
  simp [entryEnabled, irqLine, and_assoc]

theorem heldByEntry_eq_false_iff (s : State) :
    heldByEntry s = false ↔ s.params.irqLatencyZero = false ∨ entryEnabled s.toHardware = false :=
  Bool.and_eq_false_iff

/-- While a handler runs no entry is enabled, so none comes before its operations (R215, R241). -/
theorem heldByEntry_of_inHandler {s : State} (inHandler : s.core.inh = true) : heldByEntry s = false := by
  simp [heldByEntry, entryEnabled, inHandler]

theorem mayStep_cons_iff (s : State) :
    mayStep s .cons = true ↔ s.core.inh = false ∧ s.core.waiting = false ∧ heldByEntry s = false := by
  simp [mayStep, and_assoc]

/-- `HAND` steps exactly while a handler runs. -/
theorem mayStep_hand_iff (s : State) : mayStep s .hand = true ↔ s.core.inh = true := by
  simpa [mayStep] using heldByEntry_of_inHandler

theorem mayPresent_iff (s : State) (a : Agent) (i : Instr) :
    mayPresent s a i = true ↔
      mayStep s a = true ∨ (a = .hand ∧ i = .coreIrqret ∧ s.core.inh = false ∧ heldByEntry s = false) := by
  simp [mayPresent, and_assoc]

/-- No operation but the return of `HAND` is presented by an agent that may not step. -/
theorem mayStep_of_mayPresent {s : State} {a : Agent} {i : Instr} (notReturn : a ≠ .hand ∨ i ≠ .coreIrqret)
    (stepExists : mayPresent s a i = true) : mayStep s a = true :=
  ((mayPresent_iff s a i).mp stepExists).resolve_right fun ⟨hand, irqret, _⟩ => notReturn.elim (· hand) (· irqret)

theorem present_of_mayStep {s : State} {a : Agent} (may : mayStep s a = true) (i : Instr) :
    present a i s = exec i { s with issuer := a } := present_of_mayPresent (mayPresent_of_mayStep may i)

theorem present_of_noStep {s : State} {a : Agent} {i : Instr} (noStep : ¬ mayPresent s a i = true) :
    present a i s = .refused (.noSuchStep a) := if_neg noStep

/-- `CONS` has no step where it may not step: the exception of R216 is not its own. -/
theorem present_cons_of_not_mayStep {s : State} (mayNot : ¬ mayStep s .cons = true) (i : Instr) :
    present .cons i s = .refused (.noSuchStep .cons) :=
  present_of_noStep fun stepExists => mayNot (mayStep_of_mayPresent (.inl (by decide)) stepExists)

/-- An entry that is not enabled has no step, whoever presents it (R215). -/
theorem exec_coreIrqentry_disabled {s : State} (disabled : entryEnabled s.toHardware = false) :
    exec .coreIrqentry s = .refused (.noSuchStep s.issuer) := if_neg (Bool.eq_false_iff.mp disabled)

/-- Settles O6: the listed input is taken, its CW40 decodes, and the step exists. -/
theorem stepRunsDecoded : Obligations.StepRunsDecoded := by
  unfold Obligations.StepRunsDecoded
  intro s a cw rest i listed decoded stepExists
  calc step s
      = applyInput (.present a cw) { s with inputs := rest } := step_listed listed
    _ = present a i { s with inputs := rest } := by simp only [applyInput, decoded]
    _ = exec i { s with inputs := rest, issuer := a } := present_of_mayPresent stepExists

/-- Settles O9, agent by agent from the conditions under which each may step. -/
theorem onlyRunningAgentSteps : Obligations.OnlyRunningAgentSteps := by
  unfold Obligations.OnlyRunningAgentSteps
  intro s i
  refine ⟨?consBlocked, ?consRuns, ?handBlocked, ?handReturns, ?handRuns, ?entryFirst, ?entryDisabled, ?entryTaken,
    present_of_mayStep rfl i, present_of_mayStep rfl i,
    fun q => ⟨present_of_mayStep rfl i, present_of_mayStep rfl i⟩, fun j => ⟨present_of_mayStep rfl i, ?pin⟩⟩
  case consBlocked =>
    intro blocked
    refine present_cons_of_not_mayStep (fun may => ?_) i
    obtain ⟨inh, waiting, _⟩ := (mayStep_cons_iff s).mp may
    simp [inh, waiting] at blocked
  case consRuns =>
    intro inh waiting notHeld
    exact present_of_mayStep ((mayStep_cons_iff s).mpr ⟨inh, waiting, (heldByEntry_eq_false_iff s).mpr notHeld⟩) i
  case handBlocked =>
    intro inh notReturn
    refine present_of_noStep fun stepExists => ?_
    have inHandler := (mayStep_hand_iff s).mp (mayStep_of_mayPresent (.inr notReturn) stepExists)
    simp [inh] at inHandler
  case handReturns =>
    intro inh notHeld
    exact present_of_mayPresent
      ((mayPresent_iff s _ _).mpr (.inr ⟨rfl, rfl, inh, (heldByEntry_eq_false_iff s).mpr notHeld⟩))
  case handRuns => exact fun inh => present_of_mayStep ((mayStep_hand_iff s).mpr inh) i
  case entryFirst =>
    intro latency enabled
    have held : heldByEntry s = true := by simp [heldByEntry, latency, enabled]
    refine ⟨present_cons_of_not_mayStep (fun may => ?cons) i, present_of_noStep fun stepExists => ?hand⟩
    case cons =>
      obtain ⟨_, _, notHeld⟩ := (mayStep_cons_iff s).mp may
      simp [held] at notHeld
    case hand =>
      rcases (mayPresent_iff s _ _).mp stepExists with may | ⟨_, _, _, notHeld⟩
      · simp [heldByEntry_of_inHandler ((mayStep_hand_iff s).mp may)] at held
      · simp [held] at notHeld
  case entryDisabled =>
    intro disabled
    refine ⟨present_of_noStep fun stepExists => ?irq, fun a => ?entry⟩
    case irq =>
      have enabled : entryEnabled s.toHardware = true := mayStep_of_mayPresent (.inl (by decide)) stepExists
      simp [disabled] at enabled
    case entry =>
      by_cases stepExists : mayPresent s a .coreIrqentry = true
      · exact (present_of_mayPresent stepExists).trans (exec_coreIrqentry_disabled disabled)
      · exact present_of_noStep stepExists
  case entryTaken => exact fun enabled => present_of_mayStep (a := .irq) enabled _
  case pin =>
    exact present_of_noStep fun stepExists =>
      Bool.false_ne_true (mayStep_of_mayPresent (a := .pin j) (.inl (by simp)) stepExists)

/-! ### The operations, one equation for each case (R211 to R216) -/

/-- Where the parameters refuse, a violation that the hardware detects ends the operation (R240). -/
theorem conclude_detected {s : State} (refusing : s.params.refusing = true) (h : Hardware) (v : Violation) (r : Result) :
    conclude s h [⟨v, true⟩] r = .refused (.contract [v]) :=
  conclude_refused s h _ r (by simp [refuses, refusing])

theorem exec_coreWfi_open {s : State} (isOpen : s.core.imask = false) :
    exec .coreWfi s =
      conclude s { s.toHardware with core := { s.core with waiting := true } } (scopeReports s.issuer .coreWfi) .hold := by
  simp only [exec, execCoreWfi, isOpen, Bool.false_eq_true, if_false, operationReports_nil]

theorem exec_coreWfi_masked {s : State} (closed : s.core.imask = true) :
    exec .coreWfi s =
      conclude s { s.toHardware with core := { s.core with waiting := true } } [⟨.v6, true⟩] .hold := by
  simp only [exec, execCoreWfi, closed, if_true, operationReports]

theorem exec_coreCsexit_inside {s : State} (closed : s.core.imask = true) (bit : Bool) :
    exec (.coreCsexit bit) s =
      conclude s { s.toHardware with core := { s.core with imask := bit } } (scopeReports s.issuer (.coreCsexit bit))
        .done := by
  simp only [exec, execCoreCsexit, closed, if_true, operationReports_nil]

theorem exec_coreCsexit_outside {s : State} (isOpen : s.core.imask = false) (bit : Bool) :
    exec (.coreCsexit bit) s =
      conclude s { s.toHardware with core := { s.core with imask := bit } } [⟨.v9, true⟩] .done := by
  simp only [exec, execCoreCsexit, isOpen, Bool.false_eq_true, if_false, operationReports]

theorem exec_coreIrqentry_enabled {s : State} (enabled : entryEnabled s.toHardware = true) :
    exec .coreIrqentry s = conclude s (takeInterrupt s.toHardware) (scopeReports s.issuer .coreIrqentry) .done :=
  if_pos enabled

theorem exec_coreIrqret_inHandler {s : State} (inHandler : s.core.inh = true) :
    exec .coreIrqret s =
      conclude { s with results := completeWait s } (returnFromInterrupt s.toHardware)
        (scopeReports s.issuer .coreIrqret) .done :=
  if_pos inHandler

theorem exec_coreIrqret_noHandler {s : State} (noHandler : s.core.inh = false) : exec .coreIrqret s = ignore s .v7 :=
  if_neg (Bool.eq_false_iff.mp noHandler)

/-- Settles O44: with the mask open only the issuer can be reported; with it closed V6 is. -/
theorem wfiSuspends : Obligations.WfiSuspends := by
  unfold Obligations.WfiSuspends
  intro s
  refine ⟨fun isOpen ok => ?suspends, fun closed tolerant => ?reported, fun closed refusing => ?refused⟩
  case suspends => rw [exec_coreWfi_open isOpen]; exact conclude_tolerated _ _ _ _ ok
  case reported => rw [exec_coreWfi_masked closed]; exact conclude_notRefusing _ _ _ _ tolerant
  case refused => rw [exec_coreWfi_masked closed, conclude_detected refusing]

/-- Settles O46: it reports its issuer and nothing else. -/
theorem csenterClosesMask : Obligations.CsenterClosesMask := by
  unfold Obligations.CsenterClosesMask
  exact fun s => conclude_tolerated s _ .coreCsenter _

/-- Settles O47: inside a section only the issuer can be reported; with no section open V9 is. -/
theorem csexitRestoresMask : Obligations.CsexitRestoresMask := by
  unfold Obligations.CsexitRestoresMask
  intro bit s
  refine ⟨fun closed ok => ?inside, fun isOpen tolerant => ?reported, fun isOpen refusing => ?refused⟩
  case inside => rw [exec_coreCsexit_inside closed]; exact conclude_tolerated _ _ _ _ ok
  case reported => rw [exec_coreCsexit_outside isOpen]; exact conclude_notRefusing _ _ _ _ tolerant
  case refused => rw [exec_coreCsexit_outside isOpen, conclude_detected refusing]

/-- Settles O48: the four conditions are those of an enabled entry. -/
theorem irqentrySetsInHandler : Obligations.IrqentrySetsInHandler := by
  unfold Obligations.IrqentrySetsInHandler
  intro s
  refine ⟨fun wrapIf wrapIe imask inh ok => ?enters, fun missing => ?noStep⟩
  case enters =>
    rw [exec_coreIrqentry_enabled ((entryEnabled_eq_true_iff _).mpr ⟨wrapIf, wrapIe, imask, inh⟩)]
    exact conclude_tolerated _ _ _ _ ok
  case noStep =>
    refine exec_coreIrqentry_disabled (Bool.eq_false_iff.mpr fun enabled => ?_)
    obtain ⟨wrapIf, wrapIe, imask, inh⟩ := (entryEnabled_eq_true_iff _).mp enabled
    simp [wrapIf, wrapIe, imask, inh] at missing

/-- Settles O49: in a handler the return is concluded after the wait has been completed; with no handler it is ignored. -/
theorem irqretReturns : Obligations.IrqretReturns := by
  unfold Obligations.IrqretReturns
  intro s
  refine ⟨fun inHandler ok => ?returns, fun noHandler tolerant => ?ignored, fun noHandler refusing => ?refused⟩
  case returns =>
    rw [exec_coreIrqret_inHandler inHandler]
    exact conclude_tolerated { s with results := completeWait s } _ _ _ ok
  case ignored => rw [exec_coreIrqret_noHandler noHandler, ignore_notRefusing tolerant]
  case refused => rw [exec_coreIrqret_noHandler noHandler, ignore_refusing refusing]

/-! ### The two forms of the handler (R217, R250) -/

/-- The state after `PWM.IRQCLR` of `HAND` (R169). -/
def afterIrqclr (s : State) : State :=
  { s with
    apwm := { s.apwm with wrapIf := false }, issuer := .hand, results := s.results.give .hand .done, violations := [] }

/-- The state after `CORE.IRQRET` of `HAND` in a handler (R216). -/
def afterIrqret (s : State) : State :=
  { s with
    core := { s.core with inh := false, waiting := false }, issuer := .hand,
    results := (completeWait s).give .hand .done, violations := [] }

theorem run_irqclr {s : State} (inHandler : s.core.inh = true) :
    runInputs [line .hand .pwmIrqclr] s = .next (afterIrqclr s) := by
  rw [runInputs_line ((mayStep_hand_iff s).mpr inHandler)]
  exact conclude_tolerated { s with issuer := .hand } _ .pwmIrqclr _ (.inl rfl)

theorem run_irqret {s : State} (inHandler : s.core.inh = true) :
    runInputs [line .hand .coreIrqret] s = .next (afterIrqret s) := by
  rw [runInputs_line ((mayStep_hand_iff s).mpr inHandler),
    exec_coreIrqret_inHandler (s := { s with issuer := .hand }) inHandler]
  exact conclude_tolerated { s with issuer := .hand, results := completeWait s } _ .coreIrqret _ (.inl rfl)

/-- Begun with the mask open, a section around the clear ends in the very state the clear alone ends in: the exit opens the
mask again, and its `done` takes the place of the token. -/
theorem run_guarded_irqclr {s : State} (inHandler : s.core.inh = true) (isOpen : s.core.imask = false) :
    runInputs (criticalSection .hand false [line .hand .pwmIrqclr]) s = .next (afterIrqclr s) := by
  have ofCore : OfCoreA .hand := .inr rfl
  have may : mayStep s .hand = true := (mayStep_hand_iff s).mpr inHandler
  have cleared : mayStep (afterIrqclr (afterEnter .hand s)) .hand = true := (mayStep_hand_iff _).mpr inHandler
  have inside : runInputs (line .hand .coreCsenter :: [line .hand .pwmIrqclr]) s =
      .next (afterIrqclr (afterEnter .hand s)) :=
    (runInputs_append [line .hand .coreCsenter] _ (run_csenter ofCore may)).trans (run_irqclr inHandler)
  have same : afterExit .hand false (afterIrqclr (afterEnter .hand s)) = afterIrqclr s := by
    simp [afterExit, afterIrqclr, afterEnter, ← isOpen]
  exact same ▸ (runInputs_append _ _ inside).trans (run_csexit ofCore cleared rfl false)

/-- Settles O52: the clear and the guarded clear end in one state, and the return follows in both forms. -/
theorem handlerFormsAgree : Obligations.HandlerFormsAgree := by
  unfold Obligations.HandlerFormsAgree
  intro s inHandler isOpen
  have returns : runInputs [line .hand .coreIrqret] (afterIrqclr s) = .next (afterIrqret (afterIrqclr s)) :=
    run_irqret inHandler
  exact ⟨_, (runInputs_append [line .hand .pwmIrqclr] _ (run_irqclr inHandler)).trans returns,
    (runInputs_append _ _ (run_guarded_irqclr inHandler isOpen)).trans returns⟩

/-! ### A wait with the mask closed (R211, V6) -/

/-- The core in a wait that nothing can end: `CONS` suspended, no handler running, the mask closed. -/
def maskedWait : CoreA := { imask := true, inh := false, waiting := true }

/-- In a wait with the mask closed an operation from an agent that R245 permits leaves CORE: only an exit would open the
mask, and neither agent of core A has a step to present it. -/
theorem exec_maskedWait {s t : State} {a : Agent} {i : Instr} (core : s.core = maskedWait)
    (stepExists : mayPresent s a i = true) (permitted : permits a i = true)
    (e : exec i { s with issuer := a } = .next t) : t.core = maskedWait := by
  obtain ⟨_, enabled⟩ := exec_next e
  rw [exec_hardware e]
  rcases effect_core_cases i s.toHardware with
    ⟨_, wfi⟩ | ⟨_, csenter⟩ | ⟨b, rfl, _⟩ | ⟨entry, _⟩ | ⟨rfl, _⟩ | other
  · rw [wfi, core]; rfl
  · rw [csenter, core]; rfl
  · have may := mayStep_of_mayPresent (.inr (by simp)) stepExists
    have ofCore : OfCoreA a := by simpa [permits, OfCoreA] using permitted
    rcases ofCore with rfl | rfl
    · simp [mayStep_cons_iff, core, maskedWait] at may
    · simp [mayStep_hand_iff, core, maskedWait] at may
  · simpa [entryEnabled_eq_true_iff, core, maskedWait] using enabled entry
  · simp [effect, core, maskedWait]
  · rw [other, core]

/-- Settles O45: every permitted operation leaves CORE in the wait, so every run of them does. -/
theorem maskedWaitNeverEnds : Obligations.MaskedWaitNeverEnds := by
  unfold Obligations.MaskedWaitNeverEnds
  intro ins s t permitted core e
  rw [core]
  induction ins generalizing s with
  | nil => cases e; exact core
  | cons x rest ih =>
    obtain ⟨u, applied, run⟩ := runInputs_cons_next e
    obtain ⟨⟨a, cw, i, rfl, decoded, permittedStep⟩, permittedRest⟩ := List.forall_mem_cons.mp permitted
    rcases applyInput_next applied with ⟨reset, _⟩ | ⟨a', cw', i', same, decoded', stepExists, executed⟩
    · cases reset
    · cases same
      cases decoded.symm.trans decoded'
      exact ih u permittedRest (exec_maskedWait core stepExists permittedStep executed) run

/-! ### A wait that ends (R212) -/

/-- No operation but the return ends a wait. -/
theorem effect_keeps_waiting {i : Instr} {h : Hardware} (notReturn : i ≠ .coreIrqret) (suspended : h.core.waiting = true) :
    (effect i h).core.waiting = true := by
  rcases effect_core_cases i h with
    ⟨_, core⟩ | ⟨_, core⟩ | ⟨_, _, core⟩ | ⟨_, core⟩ | ⟨irqret, _⟩ | core
  case inr.inr.inr.inr.inl => exact absurd irqret notReturn
  all_goals simp [core, suspended]

/-- What an operation does to a wait and to the handler: the entry begins a handler where none runs, the return ends it and
the wait with it, and any other step leaves the handler as it is and ends no wait. -/
theorem exec_wait_cases {i : Instr} {s t : State} (e : exec i s = .next t) :
    (i = .coreIrqentry ∧ s.core.inh = false ∧ t.core = { s.core with inh := true }) ∨
    (i = .coreIrqret ∧ s.core.inh = true ∧ t.core = { s.core with inh := false, waiting := false }) ∨
    (i ≠ .coreIrqentry ∧ (i = .coreIrqret → s.core.inh = false) ∧ t.core.inh = s.core.inh ∧
      (s.core.waiting = true → t.core.waiting = true)) := by
  obtain ⟨_, enabled⟩ := exec_next e
  rw [exec_hardware e]
  by_cases entry : i = .coreIrqentry
  · obtain ⟨_, _, _, inh⟩ := (entryEnabled_eq_true_iff _).mp (enabled entry)
    exact .inl ⟨entry, inh, by rw [entry]; rfl⟩
  · by_cases irqret : i = .coreIrqret
    · subst irqret
      cases inh : s.core.inh with
      | true => exact .inr (.inl ⟨rfl, rfl, by simp [effect, inh, returnFromInterrupt]⟩)
      | false => exact .inr (.inr (by simp [effect, inh]))
    · obtain ⟨_, inhWriters, _⟩ := effect_core_writers i s.toHardware
      have inh : (effect i s.toHardware).core.inh = s.core.inh :=
        not_not.mp fun changed => (inhWriters changed).elim entry irqret
      exact .inr (.inr ⟨entry, fun eq => absurd eq irqret, inh, effect_keeps_waiting irqret⟩)

/-- A run that begins with a step is the rest of the run, from the state that the step leads to. -/
theorem OpStep.runInputs_cons {x : Input} {i : Instr} {s u : State} (step : OpStep x i s u) (rest : List Input) :
    runInputs (x :: rest) s = runInputs rest u := by
  simp only [runInputs, step.applied]

/-- From inside a handler, a run that ends the wait has a first return, no entry falls before it, and the wait and the
handler end there. -/
theorem OpRun.return_of_waitEnded {ins : List Input} {s t : State} (run : OpRun t ins s) (inHandler : s.core.inh = true)
    (suspended : s.core.waiting = true) (ended : t.core.waiting = false) :
    ∃ mid y post u, ins = mid ++ y :: post ∧ inputOp y = some .coreIrqret ∧
      (∀ z ∈ mid, inputOp z ≠ some .coreIrqentry ∧ inputOp z ≠ some .coreIrqret) ∧
      runInputs (mid ++ [y]) s = .next u ∧ u.core.waiting = false ∧ u.core.inh = false := by
  induction run with
  | nil => simp [ended] at suspended
  | @cons x i rest s u step _ ih =>
    rcases exec_wait_cases step.executed with
      ⟨_, noHandler, _⟩ | ⟨rfl, _, core⟩ | ⟨notEntry, noHandler, inh, waiting⟩
    · exact absurd inHandler (Bool.eq_false_iff.mp noHandler)
    · exact ⟨[], x, rest, u, rfl, step.op, by simp, step.runInputs_cons [], by simp [core], by simp [core]⟩
    · have notReturn : i ≠ .coreIrqret := fun irqret => Bool.eq_false_iff.mp (noHandler irqret) inHandler
      obtain ⟨mid, y, post, v, rfl, returns, quiet, runs, waitingV, inhV⟩ := ih (inh.trans inHandler) (waiting suspended)
      have quietStep : inputOp x ≠ some .coreIrqentry ∧ inputOp x ≠ some .coreIrqret := by
        simp [step.op, notEntry, notReturn]
      exact ⟨x :: mid, y, post, v, rfl, returns, List.forall_mem_cons.mpr ⟨quietStep, quiet⟩,
        (step.runInputs_cons _).trans runs, waitingV, inhV⟩

/-- From a wait with no handler running, a run that ends the wait has a first entry, which begins a handler with the wait
still on: before it a return is ignored, and nothing else ends a wait. -/
theorem OpRun.entry_of_waitEnded {ins : List Input} {s t : State} (run : OpRun t ins s) (noHandler : s.core.inh = false)
    (suspended : s.core.waiting = true) (ended : t.core.waiting = false) :
    ∃ pre x rest u, ins = pre ++ x :: rest ∧ inputOp x = some .coreIrqentry ∧
      (∀ z ∈ pre, inputOp z ≠ some .coreIrqentry) ∧ runInputs (pre ++ [x]) s = .next u ∧ OpRun t rest u ∧
      u.core.inh = true ∧ u.core.waiting = true := by
  induction run with
  | nil => simp [ended] at suspended
  | @cons x i rest s u step run ih =>
    rcases exec_wait_cases step.executed with ⟨rfl, _, core⟩ | ⟨_, inHandler, _⟩ | ⟨notEntry, _, inh, waiting⟩
    · exact ⟨[], x, rest, u, rfl, step.op, by simp, step.runInputs_cons [], run, by simp [core],
        by simpa [core] using suspended⟩
    · exact absurd inHandler (Bool.eq_false_iff.mp noHandler)
    · obtain ⟨pre, y, post, v, rfl, entry, quiet, runs, later, inhV, waitingV⟩ :=
        ih (inh.trans noHandler) (waiting suspended)
      have quietStep : inputOp x ≠ some .coreIrqentry := by simpa [step.op] using notEntry
      exact ⟨x :: pre, y, post, v, rfl, entry, List.forall_mem_cons.mpr ⟨quietStep, quiet⟩,
        (step.runInputs_cons _).trans runs, later, inhV, waitingV⟩

/-- Settles O50: the first entry of the run begins a handler, and the first return after it ends the handler and the wait. -/
theorem waitSeesOneHandlerRun : Obligations.WaitSeesOneHandlerRun := by
  unfold Obligations.WaitSeesOneHandlerRun
  intro ins s t clean suspended noHandler e ended
  obtain ⟨pre, x, rest, v, rfl, entry, quietPre, runsPre, later, inHandler, suspendedV⟩ :=
    (opRun_of_runInputs clean e).entry_of_waitEnded noHandler suspended ended
  obtain ⟨mid, y, post, u, rfl, returns, quietMid, runsMid, waiting, inh⟩ :=
    later.return_of_waitEnded inHandler suspendedV ended
  have noEntry : ∀ z ∈ pre ++ mid, inputOp z ≠ some .coreIrqentry := fun z mem =>
    (List.mem_append.mp mem).elim (quietPre z) fun inMid => (quietMid z inMid).left
  have runs : runInputs (pre ++ x :: (mid ++ [y])) s = .next u :=
    calc runInputs (pre ++ x :: (mid ++ [y])) s
        = runInputs ((pre ++ [x]) ++ (mid ++ [y])) s := by rw [List.append_assoc, List.singleton_append]
      _ = runInputs (mid ++ [y]) v := runInputs_append _ _ runsPre
      _ = .next u := runsMid
  exact ⟨pre, x, mid, y, post, u, rfl, entry, returns, noEntry, fun z mem => (quietMid z mem).right, runs, waiting, inh⟩

end Sys2Proof.Machine

/-! The statements of spec/60_exceptions.md: set wins over clear (R236), what each operation reports and what a model that
refuses makes of it (R235, R238, R240), and the entry that stays enabled until it is taken (R241). -/

namespace Sys2Proof.Machine

/-! ### Set wins over clear (R236) -/

/-- A wrap raises the flag, whatever it was (R39, R171). -/
theorem tick_wrapIf_of_wrap {a : Apwm} (run : a.pstate = .running) (wrap : atWrap a = true) : (tick a).wrapIf = true := by
  obtain ⟨last, atTop⟩ := (atWrap_eq_true_iff a).mp wrap
  rw [tick_of_wrap run last atTop]

/-- A sample that recognises a press sets the latch, whatever it was (R47, R192). -/
theorem sampleBtn_pressed_of_edge (bit : Bool) {b : Btn} (edge : edgeNow b = true) : (sampleBtn bit b).pressed = true := by
  simp [sampleBtn, edge]

/-- A clear of the foreground answers a next state, whatever the parameters refuse, and changes the latch alone (R194). -/
theorem runInputs_btnClear {s : State} (may : mayStep s .cons = true) (j : BtnId) :
    ∃ t, runInputs [line .cons (.btnClear j)] s = .next t ∧
      t.toHardware = s.toHardware.setBtn j { s.toHardware.btn j with pressed := false } := by
  rw [runInputs_line may]
  cases j with
  | btn0 => exact ⟨_, conclude_tolerated { s with issuer := .cons } _ .btn0Clear _ (.inl rfl), rfl⟩
  | btn1 => exact ⟨_, conclude_tolerated { s with issuer := .cons } _ .btn1Clear _ (.inl rfl), rfl⟩

/-- Settles O37: the clear leaves what the setting event depends on, and the event sets the flag whatever it finds. -/
theorem setWinsOverClear : Obligations.SetWinsOverClear := by
  unfold Obligations.SetWinsOverClear
  refine fun s => ⟨fun run wrap inHandler => ?wrap, fun j bit edge inh waiting latency => ?press⟩
  case wrap =>
    obtain ⟨t, ticked, hardware⟩ := runInputs_tickLine (afterIrqclr s)
    refine ⟨t, (runInputs_append [line .hand .pwmIrqclr] _ (run_irqclr inHandler)).trans ticked, ?_⟩
    rw [hardware]
    exact tick_wrapIf_of_wrap (a := { s.apwm with wrapIf := false }) run wrap
  case press =>
    have may : mayStep s .cons = true :=
      (mayStep_cons_iff s).mpr ⟨inh, waiting, (heldByEntry_eq_false_iff s).mpr (.inl latency)⟩
    obtain ⟨u, cleared, hardware⟩ := runInputs_btnClear may j
    obtain ⟨t, sampled, hardware', _⟩ := sampleLine_opStep j bit u
    refine ⟨t, (runInputs_append [line .cons (.btnClear j)] _ cleared).trans (sampled.runInputs_cons []), ?_⟩
    have kept : edgeNow (u.toHardware.btn j) = true := by rw [hardware, setBtn_btn_same]; exact edge
    obtain ⟨detector, _⟩ := sampleStep_frame j bit u.toHardware
    rw [hardware', detector]
    exact sampleBtn_pressed_of_edge bit kept

/-! ### What an operation concludes with (R235, R238, R240) -/

/-- What the pseudocode of an operation raises, its issuer left aside (R165 to R168, R211, R214, R216). -/
def ownReports (i : Instr) (s : State) : List Report :=
  match i with
  | .pwmCfg div top =>
    if s.apwm.pstate ≠ .uninit then [⟨.v2, true⟩] else if top = 0 ∨ div = 0 then [⟨.v3, true⟩] else []
  | .pwmStart => if s.apwm.pstate ≠ .configured then [⟨.v2, true⟩] else []
  | .pwmSetduty val => if s.apwm.pstate = .uninit then [⟨.v2, true⟩] else dutyReports val s
  | .pwmIrqen _ => if s.apwm.pstate = .uninit then [⟨.v2, true⟩] else []
  | .coreWfi => if s.core.imask then [⟨.v6, true⟩] else []
  | .coreCsexit _ => if s.core.imask then [] else [⟨.v9, true⟩]
  | .coreIrqret => if s.core.inh then [] else [⟨.v7, true⟩]
  | .icf0Write _ | .icf0Trywrite _ | .icf0Read | .icf0Wtick | .icf0Rtick | .icf1Write _ | .icf1Trywrite _ | .icf1Read
  | .icf1Wtick | .icf1Rtick | .pwmIrqclr | .pwmTick | .btn0Sample _ | .btn0Read | .btn0Clear | .btn1Sample _ | .btn1Read
  | .btn1Clear | .coreCsenter | .coreIrqentry => []

/-- Operation `i` in state `s` concludes with the hardware `h` and the reports `rs`, and under any other parameters it would
conclude with the same: those decide only whether a report is refused (R240). -/
def ConcludesWith (i : Instr) (s : State) (h : Hardware) (rs : List Report) : Prop :=
  ∃ results v, exec i s = conclude { s with results := results } h rs v ∧
    ∀ p : Params, exec i { s with params := p } = conclude { s with params := p, results := results } h rs v

theorem ConcludesWith.of_exec {i : Instr} {s : State} {h : Hardware} {rs : List Report} {v : Result}
    (e : ∀ p : Params, exec i { s with params := p } = conclude { s with params := p } h rs v) : ConcludesWith i s h rs :=
  ⟨s.results, v, e s.params, e⟩

theorem effect_notAccepted {i : Instr} {h : Hardware} (notAccepted : NotAccepted i h.apwm.pstate) : effect i h = h := by
  rcases notAccepted with ⟨p, d, t, rfl⟩ | ⟨p, rfl⟩ | ⟨p, ⟨v, rfl⟩ | ⟨b, rfl⟩⟩
  · simp [effect, p]
  · exact if_neg p
  · exact if_pos p
  · exact if_pos p

theorem ownReports_notAccepted {i : Instr} {s : State} (notAccepted : NotAccepted i s.apwm.pstate) :
    ownReports i s = [⟨.v2, true⟩] := by
  rcases notAccepted with ⟨p, d, t, rfl⟩ | ⟨p, rfl⟩ | ⟨p, ⟨v, rfl⟩ | ⟨b, rfl⟩⟩
  · exact if_pos p
  · exact if_pos p
  · exact if_pos p
  · exact if_pos p

/-- Every operation whose step exists concludes with the hardware `effect` says, and reports what its pseudocode raises, or
its issuer where it raises nothing. -/
theorem exec_concludesWith {i : Instr} {s : State} (enabled : i = .coreIrqentry → entryEnabled s.toHardware = true) :
    ConcludesWith i s (effect i s.toHardware) (operationReports s.issuer i (ownReports i s)) := by
  by_cases notAccepted : NotAccepted i s.apwm.pstate
  · rw [effect_notAccepted notAccepted, ownReports_notAccepted notAccepted]
    exact .of_exec fun p => exec_notAccepted (s := { s with params := p }) notAccepted
  cases i
  case pwmCfg div top =>
    have uninit : s.apwm.pstate = .uninit := by simpa [NotAccepted] using notAccepted
    have inOrder : ownReports (.pwmCfg div top) s = if top = 0 ∨ div = 0 then [⟨.v3, true⟩] else [] :=
      if_neg (not_not.mpr uninit)
    by_cases zero : top = 0 ∨ div = 0
    · have kept : effect (.pwmCfg div top) s.toHardware = s.toHardware :=
        if_neg fun ⟨_, top_ne, div_ne⟩ => zero.elim top_ne div_ne
      rw [kept, inOrder, if_pos zero]
      exact .of_exec fun p => exec_pwmCfg_reserved (s := { s with params := p }) uninit zero
    · obtain ⟨top_ne, div_ne⟩ := not_or.mp zero
      rw [effect, if_pos ⟨uninit, top_ne, div_ne⟩, inOrder, if_neg zero]
      exact .of_exec fun p => exec_pwmCfg_accepted (s := { s with params := p }) uninit top_ne div_ne
  case pwmStart =>
    have configured : s.apwm.pstate = .configured := by simpa [NotAccepted] using notAccepted
    have own : ownReports .pwmStart s = [] := if_neg (not_not.mpr configured)
    rw [effect, if_pos configured, own]
    exact .of_exec fun p => exec_pwmStart_accepted (s := { s with params := p }) configured
  case pwmSetduty val =>
    have notUninit : s.apwm.pstate ≠ .uninit := by simpa [NotAccepted] using notAccepted
    have own : ownReports (.pwmSetduty val) s = dutyReports val s := if_neg notUninit
    rw [effect, if_neg notUninit, own]
    exact .of_exec fun p => exec_pwmSetduty_accepted (s := { s with params := p }) notUninit
  case pwmIrqen b =>
    have notUninit : s.apwm.pstate ≠ .uninit := by simpa [NotAccepted] using notAccepted
    have own : ownReports (.pwmIrqen b) s = [] := if_neg notUninit
    rw [effect, if_neg notUninit, own]
    exact .of_exec fun p => exec_pwmIrqen_accepted (s := { s with params := p }) notUninit
  case coreIrqentry =>
    exact .of_exec fun p => exec_coreIrqentry_enabled (s := { s with params := p }) (enabled rfl)
  case coreIrqret =>
    by_cases inHandler : s.core.inh = true
    · have own : ownReports .coreIrqret s = [] := if_pos inHandler
      rw [effect, if_pos inHandler, own]
      exact ⟨completeWait s, _, exec_coreIrqret_inHandler inHandler,
        fun p => exec_coreIrqret_inHandler (s := { s with params := p }) inHandler⟩
    · have own : ownReports .coreIrqret s = [⟨.v7, true⟩] := if_neg inHandler
      have noHandler := Bool.eq_false_of_not_eq_true inHandler
      rw [effect, if_neg inHandler, own]
      exact .of_exec fun p => exec_coreIrqret_noHandler (s := { s with params := p }) noHandler
  all_goals exact ⟨s.results, _, rfl, fun p => rfl⟩

/-! ### Who issues it (R238 V7, V8) -/

/-- Settles O56: nothing is refused, so the operation concludes for either issuer, with the hardware `effect` says, which
reads no issuer. -/
theorem portsCannotTellIssuer : Obligations.PortsCannotTellIssuer := by
  unfold Obligations.PortsCannotTellIssuer
  intro i s t a b tolerant e
  obtain ⟨_, enabled⟩ := exec_next e
  obtain ⟨results, v, concludes, _⟩ := exec_concludesWith (s := { s with issuer := b }) enabled
  rw [conclude_notRefusing { s with issuer := b, results := results } _ _ _ tolerant] at concludes
  exact ⟨_, concludes, (exec_hardware e).symm⟩

/-! ### What a model that refuses answers (R240) -/

/-- Under strict refusal an operation that reports anything is refused. -/
theorem any_refuses_of_strict {p : Params} (strict : strictlyRefusing p = true) {rs : List Report} (reported : rs ≠ []) :
    rs.any (refuses p) = true := by
  obtain ⟨refusing, contract⟩ := Bool.and_eq_true_iff.mp strict
  obtain ⟨r, rest, rfl⟩ := List.exists_cons_of_ne_nil reported
  simp [refuses, refusing, contract]

/-- Under strict refusal an operation that answers a next state has reported nothing. -/
theorem reports_nil_of_conclude_next {s t : State} {h : Hardware} {rs : List Report} {v : Result}
    (strict : strictlyRefusing s.params = true) (e : conclude s h rs v = .next t) : rs = [] := by
  by_contra reported
  rw [conclude_refused s h rs v (any_refuses_of_strict strict reported)] at e
  cases e

/-- Settles O58: with nothing refused the operation concludes with the same hardware, reports and result, and strictly
refusing it would not have answered had it reported anything. -/
theorem refusingOnlyRemovesRuns : Obligations.RefusingOnlyRemovesRuns := by
  unfold Obligations.RefusingOnlyRemovesRuns
  intro i s t e
  obtain ⟨_, enabled⟩ := exec_next e
  obtain ⟨results, v, concludes, anyParams⟩ := exec_concludesWith enabled
  rw [concludes] at e
  have next := conclude_next e
  refine ⟨?tolerant, fun strict => ?quiet⟩
  case tolerant =>
    rw [anyParams, conclude_notRefusing _ _ _ _ rfl, next]
  case quiet =>
    rw [next, reports_nil_of_conclude_next (s := { s with results := results }) strict e]
    rfl

/-- Violation `v` is one that the pseudocode of operation `i` raises, other than those on its issuer (V5, V7, V8). -/
def RaisesItself (i : Instr) (v : Violation) : Prop :=
  (v = .v2 ∧ ((∃ d p, i = .pwmCfg d p) ∨ i = .pwmStart ∨ (∃ d, i = .pwmSetduty d) ∨ ∃ b, i = .pwmIrqen b)) ∨
    (v = .v3 ∧ ∃ d p, i = .pwmCfg d p) ∨ (v = .v4 ∧ ∃ d, i = .pwmSetduty d) ∨ (v = .v6 ∧ i = .coreWfi) ∨
    (v = .v9 ∧ ∃ b, i = .coreCsexit b)

/-- There is at most one report, and it names the violation of the issuer or one that the operation raises itself. -/
def Blames (i : Instr) (rs : List Report) : Prop :=
  rs = [] ∨ ∃ r, rs = [r] ∧ (r.violation = scopeViolation i ∨ RaisesItself i r.violation)

theorem Blames.itself {i : Instr} {v : Violation} {always : Bool} (raises : RaisesItself i v) : Blames i [⟨v, always⟩] :=
  .inr ⟨_, rfl, .inr raises⟩

/-- An operation raises at most one violation of its own where its issuer is not permitted: V5 is the foreground's, which may
write the duty (R167, R245). The V7 of a return with no handler running is the name of its issuer's violation too (R216). -/
theorem ownReports_of_unpermitted {i : Instr} {s : State} (unpermitted : permits s.issuer i = false) :
    Blames i (ownReports i s) := by
  cases i
  case pwmCfg div top =>
    simp only [ownReports]
    split
    · exact .itself (by simp [RaisesItself])
    · split
      · exact .itself (by simp [RaisesItself])
      · exact .inl rfl
  case pwmStart =>
    simp only [ownReports]
    split
    · exact .itself (by simp [RaisesItself])
    · exact .inl rfl
  case pwmSetduty val =>
    have notCons : s.issuer ≠ .cons := by simpa [permits] using unpermitted
    have duty : dutyReports val s = if s.apwm.top.ult val then [⟨.v4, false⟩] else [] := by simp [dutyReports, notCons]
    simp only [ownReports, duty]
    split
    · exact .itself (by simp [RaisesItself])
    · split
      · exact .itself (by simp [RaisesItself])
      · exact .inl rfl
  case pwmIrqen b =>
    simp only [ownReports]
    split
    · exact .itself (by simp [RaisesItself])
    · exact .inl rfl
  case coreWfi =>
    simp only [ownReports]
    split
    · exact .itself (by simp [RaisesItself])
    · exact .inl rfl
  case coreCsexit b =>
    simp only [ownReports]
    split
    · exact .inl rfl
    · exact .itself (by simp [RaisesItself])
  case coreIrqret =>
    simp only [ownReports]
    split
    · exact .inl rfl
    · exact .inr ⟨_, rfl, .inl rfl⟩
  all_goals exact .inl rfl

/-- An operation whose issuer is not permitted reports one violation: the issuer's, or one that it raises itself. -/
theorem operationReports_of_unpermitted {i : Instr} {s : State} (unpermitted : permits s.issuer i = false) :
    ∃ r, operationReports s.issuer i (ownReports i s) = [r] ∧
      (r.violation = scopeViolation i ∨ RaisesItself i r.violation) := by
  rcases ownReports_of_unpermitted unpermitted with raisesNone | ⟨r, own, named⟩
  · exact ⟨_, by rw [raisesNone, operationReports_nil, scopeReports_unpermitted unpermitted], .inl rfl⟩
  · exact ⟨r, by rw [own, operationReports], named⟩

/-- Settles O57: an operation whose step exists reports one violation, and strict refusal refuses it by that name. -/
theorem unpermittedIssuerRefused : Obligations.UnpermittedIssuerRefused := by
  unfold Obligations.UnpermittedIssuerRefused
  intro i s unpermitted strict
  by_cases enabled : i = .coreIrqentry → entryEnabled s.toHardware = true
  · obtain ⟨results, v, concludes, _⟩ := exec_concludesWith enabled
    obtain ⟨r, reports, named⟩ := operationReports_of_unpermitted unpermitted
    have refused : [r].any (refuses s.params) = true := any_refuses_of_strict strict (List.cons_ne_nil r [])
    rw [reports] at concludes
    refine .inl ⟨[r.violation], concludes.trans (conclude_refused _ _ _ _ refused), ?_⟩
    rcases named with issuer | itself
    · exact .inl (congrArg ([·]) issuer)
    · exact .inr ⟨r.violation, rfl, itself⟩
  · obtain ⟨rfl, disabled⟩ := Classical.not_imp.mp enabled
    have disabled := Bool.eq_false_of_not_eq_true disabled
    exact .inr ⟨rfl, disabled, exec_coreIrqentry_disabled disabled⟩

/-! ### An entry that stays enabled (R211, R241) -/

/-- No tick takes the flag down (R39, R171). -/
theorem tick_keeps_wrapIf {a : Apwm} (flag : a.wrapIf = true) : (tick a).wrapIf = true := by
  rcases tick_cases a with ⟨_, e⟩ | ⟨_, _, _, e⟩ | ⟨_, _, _, e⟩ | ⟨_, _, e⟩ <;> simp [e, flag]

/-- The operations that R245 permits to the agents outside core A write neither the mask of the line nor CORE, but for the
entry, and do not take the flag down (R39, R40, R51 to R53). -/
theorem effect_outsideCoreA {i : Instr} {a : Agent} (h : Hardware) (permitted : permits a i = true)
    (outside : ¬ OfCoreA a) (notEntry : i ≠ .coreIrqentry) :
    (effect i h).core = h.core ∧ (effect i h).apwm.wrapIe = h.apwm.wrapIe ∧
      (h.apwm.wrapIf = true → (effect i h).apwm.wrapIf = true) := by
  obtain ⟨notCons, notHand⟩ : a ≠ .cons ∧ a ≠ .hand := not_or.mp outside
  have core : (effect i h).core = h.core := by
    rcases effect_core_cases i h with ⟨rfl, _⟩ | ⟨rfl, _⟩ | ⟨_, rfl, _⟩ | ⟨entry, _⟩ | ⟨rfl, _⟩ | same
    case inr.inr.inr.inl => exact absurd entry notEntry
    case inr.inr.inr.inr.inr => exact same
    all_goals simp [permits, notCons, notHand] at permitted
  have apwm : (effect i h).apwm = tick h.apwm ∨ (effect i h).apwm = h.apwm := by
    rcases effect_apwm_cases i h with ⟨_, _, rfl, _⟩ | ⟨rfl, _⟩ | ⟨_, rfl, _⟩ | ⟨_, rfl, _⟩ | ⟨rfl, _⟩ | ⟨_, ticked⟩ |
      same
    case inr.inr.inr.inr.inr.inl => exact .inl ticked
    case inr.inr.inr.inr.inr.inr => exact .inr same
    all_goals simp [permits, notCons, notHand] at permitted
  refine ⟨core, ?line⟩
  rcases apwm with e | e
  · rw [e]
    exact ⟨by simp, tick_keeps_wrapIf⟩
  · simp [e]

/-- While core A waits with no handler running, only an ignored return has a step of an agent of core A (R210, R216). -/
theorem coreA_returns_of_waiting {s : State} {a : Agent} {i : Instr} (ofCore : OfCoreA a) (suspended : s.core.waiting = true)
    (noHandler : s.core.inh = false) (stepExists : mayPresent s a i = true) : i = .coreIrqret := by
  by_contra notReturn
  have may := mayStep_of_mayPresent (.inr notReturn) stepExists
  rcases ofCore with rfl | rfl
  · simp [mayStep_cons_iff, suspended] at may
  · simp [mayStep_hand_iff, noHandler] at may

/-- Core A waits, and the entry that would end its wait is enabled. -/
def PendingEntry (h : Hardware) : Prop := h.core.waiting = true ∧ entryEnabled h = true

/-- While core A waits for an enabled entry, no permitted operation but the entry disables it or ends the wait: its own
agents have no step, and the others cannot. -/
theorem exec_keeps_pendingEntry {s t : State} {a : Agent} {i : Instr} (pending : PendingEntry s.toHardware)
    (stepExists : mayPresent s a i = true) (permitted : permits a i = true) (notEntry : i ≠ .coreIrqentry)
    (e : exec i { s with issuer := a } = .next t) : PendingEntry t.toHardware := by
  obtain ⟨suspended, enabled⟩ := pending
  obtain ⟨wrapIf, wrapIe, imask, inh⟩ := (entryEnabled_eq_true_iff _).mp enabled
  have hardware : t.toHardware = effect i s.toHardware := exec_hardware (s := { s with issuer := a }) e
  by_cases ofCore : OfCoreA a
  · have irqret := coreA_returns_of_waiting ofCore suspended inh stepExists
    have kept : effect .coreIrqret s.toHardware = s.toHardware := if_neg (Bool.eq_false_iff.mp inh)
    rw [hardware, irqret, kept]
    exact ⟨suspended, enabled⟩
  · obtain ⟨core, line, flag⟩ := effect_outsideCoreA s.toHardware permitted ofCore notEntry
    rw [hardware, PendingEntry, entryEnabled_eq_true_iff, core, line]
    exact ⟨suspended, flag wrapIf, wrapIe, imask, inh⟩

/-- An input with the CW40 of an operation that answers a next state runs that operation, whose step exists. -/
theorem applyInput_present_next {a : Agent} {cw : Cw} {i : Instr} {s t : State} (decoded : decode cw = .ok i)
    (e : applyInput (.present a cw) s = .next t) :
    mayPresent s a i = true ∧ exec i { s with issuer := a } = .next t := by
  simp only [applyInput, decoded] at e
  by_cases stepExists : mayPresent s a i = true
  · exact ⟨stepExists, (present_of_mayPresent stepExists).symm.trans e⟩
  · rw [present_of_noStep stepExists] at e
    cases e

/-- An entry that is taken begins a handler where none runs (R215). -/
theorem exec_coreIrqentry_inh {s t : State} (e : exec .coreIrqentry s = .next t) :
    s.core.inh = false ∧ t.core.inh = true := by
  obtain ⟨_, enabled⟩ := exec_next e
  obtain ⟨_, _, _, inh⟩ := (entryEnabled_eq_true_iff _).mp (enabled rfl)
  exact ⟨inh, by rw [exec_hardware e]; rfl⟩

/-- Settles O51: were the entry never taken it would stay enabled, and a fair run takes such an entry. -/
theorem pendingInterruptEndsUpTaken : Obligations.PendingInterruptEndsUpTaken := by
  unfold Obligations.PendingInterruptEndsUpTaken
  intro env st run fair permitted n suspended enabled
  have steps (m : Nat) : ∃ a i, inputOp (env m) = some i ∧ permits a i = true ∧ mayPresent (st m) a i = true ∧
      exec i { st m with issuer := a } = .next (st (m + 1)) := by
    obtain ⟨a, cw, i, input, decoded, permittedStep⟩ := permitted m
    obtain ⟨stepExists, executed⟩ := applyInput_present_next decoded (input ▸ run m)
    exact ⟨a, i, by simp [inputOp, input, decoded, Except.toOption], permittedStep, stepExists, executed⟩
  by_contra untaken
  have noEntry (m : Nat) (le : n ≤ m) : inputOp (env m) ≠ some .coreIrqentry := by
    intro entry
    obtain ⟨a, i, op, _, _, executed⟩ := steps m
    cases op.symm.trans entry
    obtain ⟨before, after⟩ := exec_coreIrqentry_inh executed
    exact untaken ⟨m, le, entry, before, after⟩
  have pending (m : Nat) (le : n ≤ m) : PendingEntry (st m).toHardware := by
    induction m, le using Nat.le_induction with
    | base => exact ⟨suspended, enabled⟩
    | succ m le ih =>
      obtain ⟨a, i, op, permittedStep, stepExists, executed⟩ := steps m
      have notEntry : i ≠ .coreIrqentry := fun entry => noEntry m le (entry ▸ op)
      exact exec_keeps_pendingEntry ih stepExists permittedStep notEntry executed
  obtain ⟨m, le, entry⟩ := fair n fun m le => (pending m le).right
  exact noEntry m le entry

end Sys2Proof.Machine

/-! The statements of spec/70_reset_and_hazards.md: what the reset leaves (R270, R271), the boot order (R277), the latency of a
queue from one side to the other (R283, R284), and a button held through reset (R293). -/

namespace Sys2Proof.Machine

/-! ### The latency of a queue (R283, R284) -/

/-- A synchroniser that shows the pointer at neither flop is two edges away from showing it. -/
theorem syncLag_eq_two {q1 q2 p : Ptr} (first : q1 ≠ p) (second : q2 ≠ p) : syncLag q1 q2 p = 2 := by
  simp [syncLag, first, second]

/-! ### The reader's side (R283) -/

/-- Of an occupied slot `rd_valid` is 1 exactly when the reader sees the write pointer. -/
theorem rdValid_iff_readLag {f : Icf} (occ : occupied f = true) : rdValid f = true ↔ readLag f = 0 := by
  refine ⟨fun valid => (syncLag_eq_zero_iff _ _ _).mpr ?seen, rdValid_of_readLag occ⟩
  case seen =>
    rw [rdValid_eq_true_iff, emptyR_eq_false_iff] at valid
    exact (ptr_eq_toggle valid.symm).trans (ptr_eq_toggle ((occupied_eq_true_iff f).mp occ)).symm

/-- Right after an accepted write its word is in the slot, and the reader is two edges away from seeing it: its view was
current before the write (R31). -/
theorem QueueStep.readLag_of_accepted {q : IcfId} {i : Instr} {h h' : Hardware} {w : Word} {del : List Word}
    (step : QueueStep q i h h' [w] del) (inv : icfInv (h.icf q)) :
    occupied (h'.icf q) = true ∧ inSlot q h' = [w] ∧ readLag (h'.icf q) = 2 := by
  cases step with
  | accept v _ _ ready icf slot acc_eq =>
    have free := free_of_fullW_eq_false inv ((wrReady_eq_true_iff _).mp ready)
    have occ : occupied (h'.icf q) = true := occupied_of_toggled_wptr free (by rw [icf]) (by rw [icf]; rfl)
    obtain ⟨rq1, rq2, _⟩ := (icfInv_iff_of_free ((occupied_eq_false_iff _).mp free)).mp inv
    have moved := (ptr_toggle_ne (h.icf q).wptr).symm
    refine ⟨occ, ?word, ?lag⟩
    case word => rw [inSlot_of_occupied occ, slotWord, slot, acc_eq]; rfl
    case lag => rw [icf]; exact syncLag_eq_two (rq1.symm ▸ moved) (rq2.symm ▸ moved)
  | writeShift _ _ _ _ acc_eq | deliver _ _ _ _ acc_eq | readShift _ _ _ _ acc_eq | other _ _ _ _ acc_eq => cases acc_eq

/-- No operation delivers while the reader does not see the occupied slot: a delivery is a read-side edge at `rd_valid`. -/
theorem QueueStep.quiet_of_readLag {q : IcfId} {i : Instr} {h h' : Hardware} {acc del : List Word}
    (step : QueueStep q i h h' acc del) (occ : occupied (h.icf q) = true)
    (early : (if isReadEdge q i then 1 else 0) ≤ readLag (h.icf q)) : del = [] := by
  cases step with
  | deliver _ readSide valid =>
    rw [readSide, if_pos rfl, (rdValid_iff_readLag occ).mp valid] at early
    exact absurd early (by decide)
  | accept _ _ _ _ _ _ _ del_eq => exact del_eq
  | writeShift _ _ _ _ _ del_eq | readShift _ _ _ _ _ del_eq | other _ _ _ _ _ del_eq => exact del_eq

/-- Along a run from an occupied slot nothing is delivered while the read-side edges are no more than the reader lags by. -/
theorem OpRun.quiet_of_readLag {q : IcfId} {ins : List Input} {s t : State} (run : OpRun t ins s)
    (inv : icfInv (s.toHardware.icf q)) (occ : occupied (s.toHardware.icf q) = true)
    (early : countOps (isReadEdge q) ins ≤ readLag (s.toHardware.icf q)) : delivered q ins s = [] := by
  induction run with
  | nil => rfl
  | cons step _ ih =>
    rw [step.countOps_cons] at early
    have quiet := (step.queueStep q).quiet_of_readLag occ (by omega)
    obtain ⟨occ', lag⟩ := (step.queueStep q).readLag_of_quiet inv occ quiet
    rw [step.delivered_cons, quiet, ih (step.keeps_icfInv inv) occ' (by omega), List.append_nil]

/-- A word that stays in the slot along a run is the one a read returns at its end: nothing else is accepted meanwhile. -/
theorem OpRun.slotWord_of_quiet {q : IcfId} {ins : List Input} {s t : State} {w : Word} (run : OpRun t ins s)
    (inv : icfInv (s.toHardware.icf q)) (stored : inSlot q s.toHardware = [w]) (quiet : delivered q ins s = [])
    (occ : occupied (t.toHardware.icf q) = true) : slotWord q t.toHardware = w := by
  have order := run.keepsOrder inv
  rw [stored, quiet, inSlot_of_occupied occ] at order
  exact (List.cons.inj order).left.symm

/-- Where `rd_valid` is 1 a read is delivered, and returns the word of the slot (R135). -/
theorem exec_icfRead_delivers {q : IcfId} {s : State} (ok : issuerTolerated s (.icfRead q))
    (valid : rdValid (s.toHardware.icf q) = true) :
    ∃ u, exec (.icfRead q) s = .next u ∧ u.results.of s.issuer = .doneWord (slotWord q s.toHardware) := by
  obtain ⟨delivers, _⟩ := icfReadDeliveredOrHeld q s ok
  exact ⟨_, delivers ((rdValid_eq_true_iff _).mp valid), results_of_give _ _ _⟩

/-- Settles O25: an accepted write leaves the reader two edges behind, each read-side edge takes one away, and none delivers
before the reader sees the word. -/
theorem writeReadableAtThirdEdge : Obligations.WriteReadableAtThirdEdge := by
  unfold Obligations.WriteReadableAtThirdEdge
  intro q w op ins s s₁ t inv e acc clean e' edges
  have write := exec_queueStep q e
  rw [acc] at write
  obtain ⟨occ, stored, lag⟩ := write.readLag_of_accepted inv
  have inv₁ : icfInv (s₁.toHardware.icf q) := by rw [exec_hardware e]; exact effect_icfInv op inv
  have run := opRun_of_runInputs clean e'
  have quiet : delivered q ins s₁ = [] := run.quiet_of_readLag inv₁ occ (by omega)
  obtain ⟨occT, lagT⟩ := run.readLag_of_quiet inv₁ occ quiet
  have valid : rdValid (t.toHardware.icf q) = true ↔ countOps (isReadEdge q) ins = 2 := by
    rw [rdValid_iff_readLag occT]
    omega
  refine ⟨quiet, ?flag, fun second a ok => ?read⟩
  case flag => rw [Bool.eq_iff_iff, valid, decide_eq_true_iff]
  case read =>
    have word := run.slotWord_of_quiet inv₁ stored quiet occT
    rw [← word]
    exact exec_icfRead_delivers ok (valid.mpr second)

/-! ### The writer's side (R284) -/

/-- Of a free slot `wr_ready` is 1 exactly when the writer sees the read pointer. -/
theorem wrReady_iff_writeLag {f : Icf} (free : occupied f = false) : wrReady f = true ↔ writeLag f = 0 := by
  rw [wrReady_eq_true_iff, fullW_eq_false_iff, writeLag, syncLag_eq_zero_iff, (occupied_eq_false_iff f).mp free]

/-- Right after a delivered read the slot is free, and the writer is two edges away from seeing it: its view was current
before the read (R31). -/
theorem QueueStep.writeLag_of_delivered {q : IcfId} {i : Instr} {h h' : Hardware} {acc : List Word} {w : Word}
    (step : QueueStep q i h h' acc [w]) (inv : icfInv (h.icf q)) :
    occupied (h'.icf q) = false ∧ writeLag (h'.icf q) = 2 := by
  cases step with
  | deliver _ _ valid icf =>
    have occ := occupied_of_emptyR_eq_false inv ((rdValid_eq_true_iff _).mp valid)
    obtain ⟨wq1, wq2, _⟩ := (icfInv_iff_of_occupied ((occupied_eq_true_iff _).mp occ)).mp inv
    have moved := (ptr_toggle_ne (h.icf q).rptr).symm
    refine ⟨free_of_toggled_rptr occ (by rw [icf]; rfl) (by rw [icf]), ?lag⟩
    case lag => rw [icf]; exact syncLag_eq_two (wq1.symm ▸ moved) (wq2.symm ▸ moved)
  | accept _ _ _ _ _ _ _ del_eq => cases del_eq
  | writeShift _ _ _ _ _ del_eq | readShift _ _ _ _ _ del_eq | other _ _ _ _ _ del_eq => cases del_eq

/-- No operation accepts a word while the writer does not see the free slot: an acceptance is a write-side edge at
`wr_ready`. -/
theorem QueueStep.quiet_of_writeLag {q : IcfId} {i : Instr} {h h' : Hardware} {acc del : List Word}
    (step : QueueStep q i h h' acc del) (free : occupied (h.icf q) = false)
    (early : (if isWriteEdge q i then 1 else 0) ≤ writeLag (h.icf q)) : acc = [] := by
  cases step with
  | accept _ writeSide _ ready =>
    rw [writeSide, if_pos rfl, (wrReady_iff_writeLag free).mp ready] at early
    exact absurd early (by decide)
  | writeShift _ _ _ _ acc_eq | deliver _ _ _ _ acc_eq | readShift _ _ _ _ acc_eq | other _ _ _ _ acc_eq => exact acc_eq

/-- Along a run from a free slot nothing is accepted while the write-side edges are no more than the writer lags by. -/
theorem OpRun.quiet_of_writeLag {q : IcfId} {ins : List Input} {s t : State} (run : OpRun t ins s)
    (inv : icfInv (s.toHardware.icf q)) (free : occupied (s.toHardware.icf q) = false)
    (early : countOps (isWriteEdge q) ins ≤ writeLag (s.toHardware.icf q)) : accepted q ins s = [] := by
  induction run with
  | nil => rfl
  | cons step _ ih =>
    rw [step.countOps_cons] at early
    have quiet := (step.queueStep q).quiet_of_writeLag free (by omega)
    obtain ⟨free', lag⟩ := (step.queueStep q).writeLag_of_quiet inv free quiet
    rw [step.accepted_cons, quiet, ih (step.keeps_icfInv inv) free' (by omega), List.append_nil]

/-- Where `wr_ready` is 1 a write of either kind is accepted, and says so (R133, R134). -/
theorem exec_writes_accepted {q : IcfId} {s : State} (ready : wrReady (s.toHardware.icf q) = true) (v : Word) :
    (issuerTolerated s (.icfWrite q v) → ∃ u, exec (.icfWrite q v) s = .next u ∧ u.results.of s.issuer = .done) ∧
    (issuerTolerated s (.icfTrywrite q v) →
      ∃ u, exec (.icfTrywrite q v) s = .next u ∧ u.results.of s.issuer = .doneBit 1) := by
  have notFull := (wrReady_eq_true_iff _).mp ready
  refine ⟨fun ok => ?blocking, fun ok => ?probing⟩
  case blocking =>
    obtain ⟨accepts, _⟩ := icfWriteAcceptedOrHeld q v s ok
    exact ⟨_, accepts notFull, results_of_give _ _ _⟩
  case probing =>
    obtain ⟨accepts, _⟩ := icfTrywriteAcceptedOrNot q v s ok
    exact ⟨_, accepts notFull, results_of_give _ _ _⟩

/-- Settles O26: a delivered read leaves the writer two edges behind, each write-side edge takes one away, and none accepts
before the writer sees the free slot. -/
theorem readWritableAtThirdEdge : Obligations.ReadWritableAtThirdEdge := by
  unfold Obligations.ReadWritableAtThirdEdge
  intro q w op ins s s₁ t inv e del clean e' edges
  have read := exec_queueStep q e
  rw [del] at read
  obtain ⟨free, lag⟩ := read.writeLag_of_delivered inv
  have inv₁ : icfInv (s₁.toHardware.icf q) := by rw [exec_hardware e]; exact effect_icfInv op inv
  have run := opRun_of_runInputs clean e'
  have quiet : accepted q ins s₁ = [] := run.quiet_of_writeLag inv₁ free (by omega)
  obtain ⟨freeT, lagT⟩ := run.writeLag_of_quiet inv₁ free quiet
  have ready : wrReady (t.toHardware.icf q) = true ↔ countOps (isWriteEdge q) ins = 2 := by
    rw [wrReady_iff_writeLag freeT]
    omega
  refine ⟨quiet, ?flag, fun second a v => ?write⟩
  case flag => rw [Bool.eq_iff_iff, ready, decide_eq_true_iff]
  case write => exact exec_writes_accepted (s := { t with issuer := a }) (ready.mpr second) v

/-! ### What the reset leaves (R270, R271) -/

/-- Settles O11: `resetStep` copies the model's own fields and takes the rest from the initial state. -/
theorem resetKeepsModelFields : Obligations.ResetKeepsModelFields := by
  unfold Obligations.ResetKeepsModelFields
  exact fun s =>
    ⟨resetStep s, rfl, resetStep_params s, resetStep_inputs s, resetStep_envIndex s, rfl, resetStep_hardware s⟩

/-- The flags of a queue at its reset values (R28, R30). -/
theorem reset_icf_flags : fullW Icf.reset = false ∧ emptyR Icf.reset = true ∧ occupied Icf.reset = false := by decide

/-- At the reset values no entry is enabled: the flag and the mask of the line are 0 (R39 to R41). -/
theorem reset_entryEnabled : entryEnabled Hardware.reset = false := rfl

/-- Settles O12: each function of state at the reset values. -/
theorem resetFlags : Obligations.ResetFlags := by
  unfold Obligations.ResetFlags
  refine ⟨fun q => ?queue, rfl, rfl, ?cons, rfl, reset_entryEnabled, rfl⟩
  case queue =>
    obtain ⟨_, icf, _⟩ := reset_queues_buttons
    have atReset : State.reset.toHardware.icf q = Icf.reset := icf q
    obtain ⟨full, empty, free⟩ := reset_icf_flags
    rw [atReset]
    exact ⟨full, empty, slot_of_free (by rw [atReset, free])⟩
  case cons => exact (mayStep_cons_iff _).mpr ⟨rfl, rfl, rfl⟩

/-! ### No interrupt before the line is unmasked (R168, R271) -/

/-- Only `PWM.IRQEN 1` unmasks the line (R40, R168). -/
theorem effect_keeps_masked {i : Instr} {h : Hardware} (notUnmask : i ≠ .pwmIrqen true)
    (masked : h.apwm.wrapIe = false) : (effect i h).apwm.wrapIe = false := by
  rcases effect_apwm_cases i h with ⟨_, _, _, _, _, _, e⟩ | ⟨_, _, e⟩ | ⟨_, _, _, e⟩ | ⟨b, rfl, _, e⟩ | ⟨_, e⟩ | ⟨_, e⟩ | e
  case inr.inr.inr.inl =>
    cases b with
    | true => exact absurd rfl notUnmask
    | false => rw [e]
  all_goals simp [e, masked]

/-- Along a run of operations that never unmasks the line it stays masked. -/
theorem OpRun.keeps_masked {ins : List Input} {s t : State} (run : OpRun t ins s)
    (noUnmask : ∀ x ∈ ins, inputOp x ≠ some (.pwmIrqen true)) (masked : s.apwm.wrapIe = false) :
    t.apwm.wrapIe = false := by
  induction run with
  | nil => exact masked
  | cons step _ ih =>
    obtain ⟨notUnmask, noUnmaskRest⟩ := List.forall_mem_cons.mp noUnmask
    rw [step.op, ne_eq, Option.some_inj] at notUnmask
    refine ih noUnmaskRest ?masked
    case masked =>
      rw [exec_hardware step.executed]
      exact effect_keeps_masked notUnmask masked

/-- A masked line requests no interrupt, and then no entry is enabled (R41, R215). -/
theorem noRequest_of_masked {h : Hardware} (masked : h.apwm.wrapIe = false) :
    irqLine h.apwm = false ∧ entryEnabled h = false := by
  simp [entryEnabled, irqLine, masked]

/-- Where the entry is not enabled no agent has a step with it (R210, R215). -/
theorem present_coreIrqentry_disabled {s : State} (disabled : entryEnabled s.toHardware = false) (a : Agent) :
    present a .coreIrqentry s = .refused (.noSuchStep a) := by
  obtain ⟨_, _, _, _, _, _, entryDisabled, _⟩ := onlyRunningAgentSteps s .coreIrqentry
  obtain ⟨_, noEntry⟩ := entryDisabled disabled
  exact noEntry a

/-- Settles O13: the line is masked at reset and stays masked, and a masked line requests nothing. -/
theorem noInterruptBeforeUnmask : Obligations.NoInterruptBeforeUnmask := by
  unfold Obligations.NoInterruptBeforeUnmask
  intro ins t clean noUnmask e
  obtain ⟨quiet, disabled⟩ := noRequest_of_masked ((opRun_of_runInputs clean e).keeps_masked noUnmask rfl)
  exact ⟨quiet, present_coreIrqentry_disabled disabled⟩

/-! ### The boot order of core A (R277) -/

/-- The state after an operation of the foreground that leaves APWM at `a`, returns `done` and reports nothing. -/
def afterApwm (a : Apwm) (s : State) : State :=
  { s with apwm := a, issuer := .cons, results := s.results.give .cons .done, violations := [] }

/-- An operation that R245 permits to the foreground, and that concludes with APWM at `a` and no violation of its own, runs
whatever the parameters refuse, where CORE is at its reset values and no wrap has been flagged. -/
theorem run_foreground {s : State} {a : Apwm} {i : Instr} (core : s.core = CoreA.reset) (noFlag : s.apwm.wrapIf = false)
    (permitted : permits .cons i = true)
    (concluded : exec i { s with issuer := .cons } =
      conclude { s with issuer := .cons } { s.toHardware with apwm := a } (scopeReports .cons i) .done) :
    runInputs [line .cons i] s = .next (afterApwm a s) := by
  have idle : heldByEntry s = false := by simp [heldByEntry, entryEnabled, irqLine, noFlag]
  have may : mayStep s .cons = true := (mayStep_cons_iff s).mpr ⟨by rw [core]; rfl, by rw [core]; rfl, idle⟩
  rw [runInputs_line may, concluded, scopeReports_permitted permitted, conclude_nil]
  rfl

/-- APWM configured and not started (R165). -/
def configuredApwm (div top : Reg) : Apwm := { Apwm.reset with pstate := .configured, top := top, div := div }

/-- APWM just started, with duty 0 and the mask of its line at `ie` (R166, R168). -/
def startedApwm (div top : Reg) (ie : Bool) : Apwm :=
  { configuredApwm div top with pstate := .running, wrapIe := ie }

/-- The boot order runs from the reset values, whatever the parameters are. -/
theorem run_bootA {div top : Reg} {s : State} (div_ne : div ≠ 0) (top_ne : top ≠ 0)
    (hardware : s.toHardware = Hardware.reset) :
    runInputs (bootA div top) s =
      .next (afterApwm (startedApwm div top true) (afterApwm (startedApwm div top false)
        (afterApwm (configuredApwm div top) s))) := by
  have apwm : s.apwm = Apwm.reset := by rw [hardware]; rfl
  have core : s.core = CoreA.reset := by rw [hardware]; rfl
  have cfg : runInputs [line .cons (.pwmCfg div top)] s = .next (afterApwm (configuredApwm div top) s) := by
    refine run_foreground core (by rw [apwm]; rfl) rfl ?_
    rw [exec_pwmCfg_accepted (by rw [apwm]; rfl) top_ne div_ne, apwm]
    rfl
  have start := run_foreground (s := afterApwm (configuredApwm div top) s) core rfl rfl (exec_pwmStart_accepted rfl)
  have irqen := run_foreground (s := afterApwm (startedApwm div top false) (afterApwm (configuredApwm div top) s)) core rfl
    rfl (exec_pwmIrqen_accepted (bit := true) (show PState.running ≠ .uninit by decide))
  calc runInputs (bootA div top) s
      = runInputs [line .cons .pwmStart, line .cons (.pwmIrqen true)] (afterApwm (configuredApwm div top) s) :=
        runInputs_append [line .cons (.pwmCfg div top)] _ cfg
    _ = runInputs [line .cons (.pwmIrqen true)]
          (afterApwm (startedApwm div top false) (afterApwm (configuredApwm div top) s)) :=
        runInputs_append [line .cons .pwmStart] _ start
    _ = _ := irqen

/-- Settles O14: the run of the boot order, from reset and from the reset of a model that refuses. -/
theorem bootReachesRunning : Obligations.BootReachesRunning := by
  unfold Obligations.BootReachesRunning
  intro div top div_ne top_ne
  refine ⟨_, run_bootA div_ne top_ne rfl, rfl, ?low, rfl, ?contract⟩
  case low => exact pwmOut_start (configuredApwm div top)
  case contract => rw [withinContract, run_bootA div_ne top_ne rfl]

/-! ### A button held through reset (R293) -/

/-- A sample of the button's own clock takes the detector on and returns what R192 says, whatever the parameters refuse. -/
theorem runInputs_sampleLine (j : BtnId) (bit : Bool) (s : State) :
    ∃ t, runInputs [sampleLine j bit] s = .next t ∧ t.toHardware = sampleStep j bit s.toHardware ∧
      t.results.clock = .doneSample (sampleResult (edgeNow (s.toHardware.btn j)) (syncLevel (s.toHardware.btn j))) := by
  have step : runInputs [sampleLine j bit] s = exec (.btnSample j bit) { s with issuer := .bclk j } := runInputs_line rfl _
  rw [step, exec_btnSample, sampleButton, scopeReports_permitted (permits_btnSample j bit), conclude_nil]
  exact ⟨_, rfl, rfl, rfl⟩

/-- The detector of a button held low from reset, after `n` samples. -/
def heldBtn (n : Nat) : Btn := (sampleBtn false)^[n] Btn.reset

/-- The low level reaches `S2` after two samples, so the detector sees its edge at the third (R192, R293). -/
theorem heldBtn_edges :
    (edgeNow (heldBtn 0) = false ∧ syncLevel (heldBtn 0) = false) ∧
    (edgeNow (heldBtn 1) = false ∧ syncLevel (heldBtn 1) = false) ∧
    (edgeNow (heldBtn 2) = true ∧ syncLevel (heldBtn 2) = true) ∧
    (heldBtn 2).pressed = false ∧ (heldBtn 3).pressed = true := by decide

/-- One more sample of a button that is held low from reset. -/
theorem run_heldSample {j : BtnId} {n : Nat} {s : State} (held : s.toHardware.btn j = heldBtn n) :
    ∃ t, runInputs [sampleLine j false] s = .next t ∧
      t.results.clock = .doneSample (sampleResult (edgeNow (heldBtn n)) (syncLevel (heldBtn n))) ∧
      t.toHardware.btn j = heldBtn (n + 1) ∧
      t.play = if j = .btn0 ∧ edgeNow (heldBtn n) = true then toggle s.play else s.play := by
  obtain ⟨t, run, hardware, result⟩ := runInputs_sampleLine j false s
  obtain ⟨detector, _⟩ := sampleStep_frame j false s.toHardware
  rw [← hardware, held] at detector
  rw [held] at result
  refine ⟨t, run, result, ?detector, ?play⟩
  case detector => rw [detector, heldBtn, heldBtn, Function.iterate_succ_apply']
  case play => rw [hardware, sampleStep_play, held]

/-- Settles O43: three samples of a button held low, of which the third alone finds an edge. -/
theorem heldThroughResetIsPress : Obligations.HeldThroughResetIsPress := by
  unfold Obligations.HeldThroughResetIsPress
  intro j
  obtain ⟨_, _, btn⟩ := reset_queues_buttons
  have held : State.reset.toHardware.btn j = heldBtn 0 := btn j
  obtain ⟨⟨edge₁, level₁⟩, ⟨edge₂, level₂⟩, ⟨edge₃, level₃⟩, notPressed, pressed⟩ := heldBtn_edges
  obtain ⟨t₁, run₁, result₁, held₁, play₁⟩ := run_heldSample held
  obtain ⟨t₂, run₂, result₂, held₂, play₂⟩ := run_heldSample held₁
  obtain ⟨t₃, run₃, result₃, held₃, play₃⟩ := run_heldSample held₂
  have atReset : State.reset.play = .playing := rfl
  have playing : t₂.play = .playing := by simp [play₂, play₁, edge₁, edge₂, atReset]
  rw [edge₁, level₁] at result₁
  rw [edge₂, level₂] at result₂
  rw [edge₃, level₃] at result₃
  refine ⟨by rw [held]; rfl, by rw [held]; rfl, by rw [held]; rfl, t₁, t₂, t₃, run₁, result₁, run₂, result₂,
    by rw [held₂, notPressed], playing, run₃, result₃, by rw [held₃, pressed], ?paused⟩
  case paused => simp [play₃, playing, edge₃, toggle]

end Sys2Proof.Machine
